-- ==== Sys2Proof/Word.lean ====
section
/-! DEFINITION. The word types of the block: 32-bit words, bytes, command and response words. -/

namespace Sys2Proof

/-- A 32-bit word: registers `CRC` and `SYND`, table entries, `arg` and `data` (R8). -/
abbrev Word := BitVec 32

/-- One byte of the signature buffer (R30). -/
abbrev Byte := BitVec 8

/-- The 40-bit command word `cmd[39:0]` (R70). -/
abbrev CommandWord := BitVec 40

/-- The 36-bit response word `rsp[35:0]` (R71). -/
abbrev ResponseWord := BitVec 36

end Sys2Proof
end

