-- ==== Sys2Proof/Config.lean ====
section
/-! DEFINITION. The parameters the spec fixes for this block (R6) and the one free value. `SignBytes`
(68) and `SignBits` (544) of R6 are sizes of types and stand as numerals where they are used. -/

namespace Sys2Proof.Config

/-- `POLY`, the generator constant, bit `i` the coefficient of x^i (R6, R28, R102). -/
def poly : Word := 0xC1E52417

/-- `CRC_INIT`, the divider's state at the start of EMBED, CHECK and each BUILD probe (R6, R145). -/
def crcInit : Word := 0

/-- `NOT_FOUND`, the locator's sentinel (R6, R190). -/
def notFound : BitVec 10 := 0x3FF

/-- `GEOM`: `SignBytes` in bits 31:16, `SignBits` in bits 15:0 (R29). -/
def geom : Word := 0x00440220

/-- What a byte of `SIG` that is not listed reads as: the reset contents (R30, R34). -/
def sigResetByte : Byte := 0x00

/-- FREE VALUE: the contents of `SYNTAB[p]` while no table has been built, "unspecified" (R31) and
"any value" (93_implementation_defined.md I4). No run reaches a read of it (log entry 5). -/
opaque unbuiltEntry : Nat → Word

end Sys2Proof.Config
end

