-- ==== Sys2Proof/Syntax.lean ====
section
/-! DEFINITION. The commands of the block, one constructor per row of spec/opcode_table.json (R75). -/

namespace Sys2Proof

/-- A command with its operand fields exactly as they stand in `arg` (R73, R74). A field can hold a
value outside the range it addresses: such a command is a form of its own, refused with `E_ADDR`
when it executes (R55, R273). -/
inductive Instr where
  /-- NOP (R220) -/
  | nop
  /-- SRST, soft reset (R221) -/
  | srst
  /-- RDREG reg (R222) -/
  | rdreg (reg : BitVec 4)
  /-- CLRCRC (R105) -/
  | clrcrc
  /-- LDCRC val (R106) -/
  | ldcrc (val : Word)
  /-- PASSBIT bit (R107) -/
  | passbit (bit : Bool)
  /-- PASSBYTE byte (R108) -/
  | passbyte (byte : Byte)
  /-- WRSIG addr, byte (R123) -/
  | wrsig (addr : BitVec 7) (byte : Byte)
  /-- RDSIG addr (R124) -/
  | rdsig (addr : BitVec 7)
  /-- FLIPBIT idx (R125) -/
  | flipbit (idx : BitVec 10)
  /-- EMBED (R148) -/
  | embed
  /-- CHECK (R149) -/
  | check
  /-- BUILD (R170) -/
  | build
  /-- RDTAB idx (R172) -/
  | rdtab (idx : BitVec 10)
  /-- RDSORTS idx (R173) -/
  | rdsorts (idx : BitVec 10)
  /-- RDSORTP idx (R174) -/
  | rdsortp (idx : BitVec 10)
  /-- FIND val (R194) -/
  | find (val : Word)
  /-- CORRECT (R200) -/
  | correct
  deriving DecidableEq, Repr

end Sys2Proof
end

