-- ==== Sys2Proof/WellFormed.lean ====
section
/-! DEFINITION. Which commands have every operand in the range it addresses (R55, R74). -/

namespace Sys2Proof

/-- Every field lies in its legal range: `addr <= 67`, `idx <= 543`, `reg <= 5` (R55, R76 check 3).
A command that is not well-formed still decodes and executes: it is refused with `E_ADDR`. -/
def Instr.wf : Instr → Bool
  | .nop | .srst | .clrcrc | .ldcrc _ | .passbit _ | .passbyte _ => true
  | .embed | .check | .build | .find _ | .correct => true
  | .rdreg reg => reg.toNat < 6
  | .wrsig addr _ | .rdsig addr => addr.toNat < 68
  | .flipbit idx | .rdtab idx | .rdsorts idx | .rdsortp idx => idx.toNat < 544

end Sys2Proof
end

