-- ==== Sys2Proof/Decode.lean ====
section
/-! DEFINITION. Decoding and encoding of command words (R70, R73, R75 to R79). -/

namespace Sys2Proof

/-- Why a command word is no command: the checks 1 and 2 of R76 and R273, by name. -/
inductive DecodeError where
  /-- `op` is not one of the eighteen opcodes; refused with `E_OPC` (R77). -/
  | undefinedOpcode
  /-- A reserved bit of `arg` is 1; refused with `E_ARG` (R78). -/
  | reservedBits
  deriving DecidableEq, Repr

/-- `cmd[39:32]` (R70). -/
def opField (w : CommandWord) : BitVec 8 := w.extractLsb' 32 8

/-- `cmd[31:0]` (R70). -/
def argField (w : CommandWord) : Word := w.extractLsb' 0 32

/-- Accept a command only if no bit of `arg` under the format's reserved mask is 1 (R73, R78). -/
def ifReservedClear (reserved arg : Word) (i : Instr) : Except DecodeError Instr :=
  if arg &&& reserved = 0 then .ok i else .error .reservedBits

/-- Format `N`: no field, all of `arg` reserved (R73). -/
def decodeN (arg : Word) (i : Instr) : Except DecodeError Instr :=
  ifReservedClear 0xFFFFFFFF arg i

/-- Format `W`: `val = arg[31:0]`, nothing reserved (R73). -/
def decodeW (arg : Word) (i : Word → Instr) : Except DecodeError Instr :=
  .ok (i arg)

/-- Format `B1`: `bit = arg[0]` (R73). -/
def decodeB1 (arg : Word) (i : Bool → Instr) : Except DecodeError Instr :=
  ifReservedClear 0xFFFFFFFE arg (i (arg.getLsbD 0))

/-- Format `B8`: `byte = arg[7:0]` (R73). -/
def decodeB8 (arg : Word) (i : Byte → Instr) : Except DecodeError Instr :=
  ifReservedClear 0xFFFFFF00 arg (i (arg.extractLsb' 0 8))

/-- Format `A7`: `addr = arg[6:0]` (R73). -/
def decodeA7 (arg : Word) (i : BitVec 7 → Instr) : Except DecodeError Instr :=
  ifReservedClear 0xFFFFFF80 arg (i (arg.extractLsb' 0 7))

/-- Format `AV`: `addr = arg[14:8]`, `byte = arg[7:0]` (R73). -/
def decodeAV (arg : Word) (i : BitVec 7 → Byte → Instr) : Except DecodeError Instr :=
  ifReservedClear 0xFFFF8000 arg (i (arg.extractLsb' 8 7) (arg.extractLsb' 0 8))

/-- Format `P10`: `idx = arg[9:0]` (R73). -/
def decodeP10 (arg : Word) (i : BitVec 10 → Instr) : Except DecodeError Instr :=
  ifReservedClear 0xFFFFFC00 arg (i (arg.extractLsb' 0 10))

/-- Format `R4`: `reg = arg[3:0]` (R73). -/
def decodeR4 (arg : Word) (i : BitVec 4 → Instr) : Except DecodeError Instr :=
  ifReservedClear 0xFFFFFFF0 arg (i (arg.extractLsb' 0 4))

/-- Decoding by opcode and argument, the opcode map of R75: first the opcode (check 1), then the
reserved bits of its format (check 2). -/
def decodeFields (op : BitVec 8) (arg : Word) : Except DecodeError Instr :=
  match op with
  | 0x00 => decodeN arg .nop
  | 0x01 => decodeN arg .srst
  | 0x02 => decodeR4 arg .rdreg
  | 0x10 => decodeN arg .clrcrc
  | 0x11 => decodeW arg .ldcrc
  | 0x12 => decodeB1 arg .passbit
  | 0x13 => decodeB8 arg .passbyte
  | 0x20 => decodeAV arg .wrsig
  | 0x21 => decodeA7 arg .rdsig
  | 0x22 => decodeP10 arg .flipbit
  | 0x30 => decodeN arg .embed
  | 0x31 => decodeN arg .check
  | 0x40 => decodeN arg .build
  | 0x41 => decodeP10 arg .rdtab
  | 0x42 => decodeP10 arg .rdsorts
  | 0x43 => decodeP10 arg .rdsortp
  | 0x50 => decodeW arg .find
  | 0x51 => decodeN arg .correct
  | _ => .error .undefinedOpcode

/-- Decoding, total on all 2^40 command words (R76 checks 1 and 2; check 3, the operand ranges, is
made by the command's meaning, in the same order). -/
def decode (w : CommandWord) : Except DecodeError Instr :=
  decodeFields (opField w) (argField w)

/-- The opcode of a command (R75). -/
def opcode : Instr → BitVec 8
  | .nop => 0x00
  | .srst => 0x01
  | .rdreg _ => 0x02
  | .clrcrc => 0x10
  | .ldcrc _ => 0x11
  | .passbit _ => 0x12
  | .passbyte _ => 0x13
  | .wrsig _ _ => 0x20
  | .rdsig _ => 0x21
  | .flipbit _ => 0x22
  | .embed => 0x30
  | .check => 0x31
  | .build => 0x40
  | .rdtab _ => 0x41
  | .rdsorts _ => 0x42
  | .rdsortp _ => 0x43
  | .find _ => 0x50
  | .correct => 0x51

/-- The argument of a command: its fields at their places, every reserved bit 0 (R73). -/
def argument : Instr → Word
  | .nop | .srst | .clrcrc | .embed | .check | .build | .correct => 0
  | .ldcrc val | .find val => val
  | .passbit bit => (BitVec.ofBool bit).setWidth 32
  | .passbyte byte => byte.setWidth 32
  | .rdsig addr => addr.setWidth 32
  | .wrsig addr byte => addr.setWidth 32 <<< 8 ||| byte.setWidth 32
  | .flipbit idx | .rdtab idx | .rdsorts idx | .rdsortp idx => idx.setWidth 32
  | .rdreg reg => reg.setWidth 32

/-- The command word of a command, `{op, arg}` (R70). -/
def encode (i : Instr) : CommandWord := opcode i ++ argument i

/-- The command the decoder reads from the low `nbits` bits of `w`, numbered as the opcode table
numbers them: one 40-bit word, bit 0 least significant. -/
def decodeTableWord (nbits w : Nat) : Option Instr :=
  match decode (BitVec.ofNat 40 (w % 2 ^ nbits)) with
  | .ok i => some i
  | .error _ => none

end Sys2Proof
end

