-- ==== Sys2Proof/Machine/State.lean ====
section
/-! DEFINITION. The state of the block (R20), the port's inputs and responses, the reasons to stop,
and the state after reset (R34, R300). -/

namespace Sys2Proof.Machine

/-- The status of a response (R271). Codes 7 to 15 are never produced, so they have no constructor. -/
inductive StatusCode where
  /-- `OK`: the command executed. -/
  | ok
  /-- `E_OPC`: undefined opcode (R77). -/
  | eOpc
  /-- `E_ARG`: a reserved bit of `arg` is 1 (R78). -/
  | eArg
  /-- `E_ADDR`: a field is out of range (R55). -/
  | eAddr
  /-- `E_CFG`: configuration error (R274). -/
  | eCfg
  /-- `E_NOTAB`: the table is needed and `TV = 0`. -/
  | eNotab
  /-- `E_STATE`: BUILD when `TV = 1` (R171). -/
  | eState
  deriving DecidableEq, Repr

/-- One response: `rsp[35:32]` and `rsp[31:0]` (R71). -/
structure Response where
  st : StatusCode
  data : Word
  deriving DecidableEq, Repr

/-- What the host can do at the port (R72, R301, 93_implementation_defined.md I8). -/
inductive PortInput where
  /-- The host issues a command word. -/
  | command (word : CommandWord)
  /-- The host asserts `rst` between two commands (R300, R301). -/
  | hardReset
  /-- The host breaks the handshake of R72: it changes `cmd` while it waits, or issues a command
  before the previous response is delivered. -/
  | handshakeViolation
  deriving DecidableEq, Repr

/-- Why the machine stops with a fault. -/
inductive Fault where
  /-- Raised by `step` alone, at a `PortInput.handshakeViolation`: 93_implementation_defined.md I8
  gives such a host no behaviour ("fault: outside the transaction-level model"). Safe: the model
  stops where an implementation does something unspecified. No command raises it. -/
  | handshakeViolation
  deriving DecidableEq, Repr

/-- Why an instruction is refused by the model. -/
inductive Refusal where
  /-- Raised by an arm of `exec` whose instruction has no meaning yet. Safe. No arm raises it now.
  (A command the BLOCK refuses, R272, is no refusal of the model: it has a next state.) -/
  | notModelled (mnemonic : String)
  deriving DecidableEq, Repr

/-- A memory of bytes as (address, byte) cells in canonical form: addresses strictly rising, no
cell equal to what an unlisted address reads as (`Memory.wf`). The block's one byte memory is `SIG`
(R50); its addresses are 0 to 67. -/
abbrev Memory := List Host.Cell

/-- The state of the block: the record of R20, and the two lists of the command port. -/
structure State where
  /-- `CRC` (R22) -/
  crc : Word
  /-- `SYND` (R23) -/
  synd : Word
  /-- `POS` (R24) -/
  pos : BitVec 10
  /-- `STATUS.TV`, table valid (R25, R26) -/
  tv : Bool
  /-- `STATUS.CE`, configuration error (R25, R26) -/
  ce : Bool
  /-- `STATUS.ERR` (R25, R272) -/
  err : Bool
  /-- `STATUS.FIX` (R25, R26) -/
  fix : Bool
  /-- `STATUS.ECODE` (R25, R272) -/
  ecode : BitVec 4
  /-- `SIG`, the signature buffer (R30) -/
  sig : Memory
  /-- `SYNTAB`, absent until BUILD has written it (R20, R31) -/
  tab : Option (Vector Word 544)
  /-- Model's own: what the host will present at the command port, next first (log entry 1). -/
  inputs : List PortInput
  /-- Model's own: the responses delivered so far, oldest first (log entry 2). -/
  responses : List Response
  deriving DecidableEq, Repr

/-- The block right after reset (R34, R300), with nothing presented and nothing answered. -/
def State.reset : State where
  crc := 0x00000000
  synd := 0x00000000
  pos := 0x3FF
  tv := false
  ce := false
  err := false
  fix := false
  ecode := 0
  sig := []
  tab := none
  inputs := []
  responses := []

end Sys2Proof.Machine
end

