-- ==== Sys2Proof/Machine/Ops.lean ====
section
/-! DEFINITION. The named operations over memory, registers and the port: reads and writes of `SIG`,
responding, taking a refusal (R272), the admission checks (R273), reset (R300), the next port input. -/

namespace Sys2Proof.Machine

/-! ## The byte memory `SIG` -/

/-- Canonical form from address `lo` on: addresses strictly rising and below 68, no cell that holds
the byte an unlisted address reads as. -/
def Memory.wfFrom : Nat → Memory → Bool
  | _, [] => true
  | lo, (a, v) :: m =>
    decide (lo ≤ a) && decide (a < 68) && v != Config.sigResetByte && Memory.wfFrom (a + 1) m

/-- The canonical form of `SIG`. -/
def Memory.wf (m : Memory) : Bool := Memory.wfFrom 0 m

/-- `MemRead(SIG, a, 1)` (R10, R51). -/
def Memory.read : Memory → Nat → Byte
  | [], _ => Config.sigResetByte
  | (b, v) :: m, a => if a = b then v else Memory.read m a

/-- A cell in front of a memory, left out where it would hold the unlisted byte. -/
def Memory.cons (a : Nat) (v : Byte) (m : Memory) : Memory :=
  if v = Config.sigResetByte then m else (a, v) :: m

/-- `MemWrite(SIG, a, 1, v)` (R10, R51), keeping the canonical form. -/
def Memory.write : Memory → Nat → Byte → Memory
  | [], a, v => Memory.cons a v []
  | (b, u) :: m, a, v =>
    if a < b then Memory.cons a v ((b, u) :: m)
    else if a = b then Memory.cons a v m
    else (b, u) :: Memory.write m a v

/-! ## Updates of the state -/

/-- `CRC <- v`. -/
def State.setCrc (s : State) (v : Word) : State := { s with crc := v }

/-- `SIG` replaced by `m`. -/
def State.setSig (s : State) (m : Memory) : State := { s with sig := m }

/-- `SYND <- v`. -/
def State.setSynd (s : State) (v : Word) : State := { s with synd := v }

/-- `POS <- p; FIX <- f`, the record of a correction attempt (R24, R26). -/
def State.setAttempt (s : State) (p : BitVec 10) (f : Bool) : State := { s with pos := p, fix := f }

/-- `SYNTAB <- t; TV <- 1` (R170). -/
def State.installTable (s : State) (t : Vector Word 544) : State := { s with tab := some t, tv := true }

/-- `CE <- 1` (R169, R274). -/
def State.setConfigError (s : State) : State := { s with ce := true }

/-- A response is delivered (R71). -/
def State.answer (s : State) (r : Response) : State := { s with responses := s.responses ++ [r] }

/-- Every piece of the block's state takes its reset value (R34, R300); the host's lists are not
state of the block (R20, R21) and stay. -/
def State.resetBlock (s : State) : State :=
  { State.reset with inputs := s.inputs, responses := s.responses }

/-! ## Responding and refusing -/

/-- The 4-bit code of a status (R271). -/
def StatusCode.code : StatusCode → BitVec 4
  | .ok => 0
  | .eOpc => 1
  | .eArg => 2
  | .eAddr => 3
  | .eCfg => 4
  | .eNotab => 5
  | .eState => 6

/-- The 36-bit response word `{st, data}` (R71). -/
def Response.word (r : Response) : ResponseWord := r.st.code ++ r.data

/-- `respond(d)`: the command completes with status `OK` and data `d` (R10). -/
def respond (d : Word) (s : State) : Host.Outcome State Fault Refusal :=
  .next (s.answer ⟨.ok, d⟩)

/-- What a refusal records: `ERR` is set, `ECODE` keeps the first code (R272, R277). -/
def State.recordError (s : State) (e : StatusCode) : State :=
  { s with ecode := if s.err then s.ecode else e.code, err := true }

/-- `raise E_x`, the refusal mechanism (R272): nothing but `ERR` and `ECODE` changes, the response is
`(x, 0)`, and the block goes on. This is all there is of taking an exception (R276), and there is
no return from it (R277). -/
def raise (e : StatusCode) (s : State) : Host.Outcome State Fault Refusal :=
  .next ((s.recordError e).answer ⟨e, 0⟩)

/-- The status a word that does not decode is refused with (R76, R273 checks 1 and 2). -/
def decodeErrorStatus : DecodeError → StatusCode
  | .undefinedOpcode => .eOpc
  | .reservedBits => .eArg

/-- A word that is no command is refused (R77, R78). -/
def refuseWord (e : DecodeError) (s : State) : Host.Outcome State Fault Refusal :=
  raise (decodeErrorStatus e) s

/-! ## Admission checks (R273) -/

/-- Check 3 for a byte address: `addr > 67` raises `E_ADDR`; the rest gets a legal address. -/
def withAddr (addr : BitVec 7) (s : State) (k : Fin 68 → Host.Outcome State Fault Refusal) :
    Host.Outcome State Fault Refusal :=
  if h : addr.toNat < 68 then k ⟨addr.toNat, h⟩ else raise .eAddr s

/-- Check 3 for a position or rank: `idx > 543` raises `E_ADDR`; the rest gets a legal index. -/
def withIndex (idx : BitVec 10) (s : State) (k : Fin 544 → Host.Outcome State Fault Refusal) :
    Host.Outcome State Fault Refusal :=
  if h : idx.toNat < 544 then k ⟨idx.toNat, h⟩ else raise .eAddr s

/-- The contents of `SYNTAB`; while no table is built they are a free value (R31, I4). -/
def State.table (s : State) : Vector Word 544 :=
  match s.tab with
  | some t => t
  | none => Vector.ofFn fun p => Config.unbuiltEntry p.val

/-- Checks 4 and 5, for a command that reads the table: `CE = 1` raises `E_CFG`, then `TV = 0`
raises `E_NOTAB`; the rest gets the table. -/
def withTable (s : State) (k : Vector Word 544 → Host.Outcome State Fault Refusal) :
    Host.Outcome State Fault Refusal :=
  if s.ce then raise .eCfg s
  else if !s.tv then raise .eNotab s
  else k s.table

/-- Checks 4 and 6, for BUILD: `CE = 1` raises `E_CFG`, then `TV = 1` raises `E_STATE`. -/
def withoutTable (s : State) (k : Host.Outcome State Fault Refusal) :
    Host.Outcome State Fault Refusal :=
  if s.ce then raise .eCfg s
  else if s.tv then raise .eState s
  else k

/-! ## The port -/

/-- What the block finds at its port, with the state after taking it. -/
inductive Presented where
  /-- The host presents nothing. -/
  | nothing
  /-- `rst` is asserted. -/
  | hardReset (s : State)
  /-- The handshake is broken. -/
  | violation
  /-- A command word is issued. -/
  | command (w : CommandWord) (s : State)

/-- Take the next input from the port. -/
def takeInput (s : State) : Presented :=
  match s.inputs with
  | [] => .nothing
  | .hardReset :: rest => .hardReset { s with inputs := rest }
  | .handshakeViolation :: _ => .violation
  | .command w :: rest => .command w { s with inputs := rest }

/-- Hard reset between commands (R300, R301): the reset state, and no response. -/
def hardReset (s : State) : Host.Outcome State Fault Refusal := .next s.resetBlock

/-- With nothing presented the block "does nothing on its own" (R300). -/
def idle (s : State) : Host.Outcome State Fault Refusal := .next s

/-- The state with a command word presented as the next input. -/
def presentCommand (s : State) (w : CommandWord) : State := { s with inputs := .command w :: s.inputs }

end Sys2Proof.Machine
end

