-- ==== Sys2Proof/Machine/Flags.lean ====
section
/-! DEFINITION. The flag `Z` and the word `STATUS` (R25, R26). -/

namespace Sys2Proof.Machine

/-- `Z`: `SYND == 0`, combinational, not stored (R25, R26). -/
def State.z (s : State) : Bool := s.synd == 0

/-- A word with the flag `b` at bit `n` and every other bit 0. -/
def flagAt (n : Nat) (b : Bool) : Word := (BitVec.ofBool b).setWidth 32 <<< n

/-- `STATUS` (R25): `TV`, `CE`, `ERR`, `Z`, `FIX` at bits 0 to 4, `ECODE` in bits 11:8; bits 7:5 and
31:12 are reserved and read as 0. -/
def State.status (s : State) : Word :=
  flagAt 0 s.tv ||| flagAt 1 s.ce ||| flagAt 2 s.err ||| flagAt 3 s.z ||| flagAt 4 s.fix |||
    s.ecode.setWidth 32 <<< 8

end Sys2Proof.Machine
end

