-- ==== Sys2Proof/Machine/Operands.lean ====
section
/-! DEFINITION. Operand forms: register numbers (R27), the bit selector (R9, R120, R121), and the
result word of CORRECT (R200, R201). -/

namespace Sys2Proof.Machine

/-- The register a number names (R27, R222); 6 to 15 name none. -/
def readReg (reg : BitVec 4) (s : State) : Option Word :=
  match reg with
  | 0 => some s.crc
  | 1 => some s.synd
  | 2 => some (s.pos.setWidth 32)
  | 3 => some s.status
  | 4 => some Config.poly
  | 5 => some Config.geom
  | _ => none

/-- `byteidx(p) = p >> 3` (R120). -/
def byteidx (p : Nat) : Nat := p >>> 3

/-- `bitidx(p) = 7 - (p & 7)`, bit 0 the least significant of the byte (R120). -/
def bitidx (p : Nat) : Nat := 7 - (p &&& 7)

/-- `bytemask(p) = 0x80 >> (p & 7)` (R120). -/
def bytemask (p : Nat) : Byte := 0x80 >>> (p &&& 7)

/-- `getbit(buf, p)` (R120). -/
def Memory.getbit (m : Memory) (p : Nat) : Bool := (m.read (byteidx p)).getLsbD (bitidx p)

/-- `flip(buf, p)` (R121). -/
def Memory.flip (m : Memory) (p : Nat) : Memory :=
  m.write (byteidx p) (m.read (byteidx p) ^^^ bytemask p)

/-- The outcome of a correction attempt (R201). Class 3 is never produced. -/
inductive CorrectionClass where
  /-- The checksum was zero and no correction was applied. -/
  | good
  /-- A correction was applied and the checksum became zero. -/
  | fixed
  /-- The checksum remains non-zero after the attempt. -/
  | stillBad
  deriving DecidableEq, Repr

/-- `class[1:0]` (R201). -/
def classCode : CorrectionClass → BitVec 2
  | .good => 0
  | .fixed => 1
  | .stillBad => 2

/-- The data of CORRECT's response, `{14'b0, class[1:0], 6'b0, POS[9:0]}` (R200). -/
def correctionData (c : CorrectionClass) (pos : BitVec 10) : Word :=
  (classCode c).setWidth 32 <<< 16 ||| pos.setWidth 32

end Sys2Proof.Machine
end

