-- ==== Sys2Proof/Machine/Divider.lean ====
section
/-! DEFINITION. The CRC-31 polynomial divider: CLRCRC, LDCRC, PASSBIT, PASSBYTE (40_divider.md).
The functions take the generator as an argument (00_scope.md R7, I13); the block's is `Config.poly`. -/

namespace Sys2Proof.Machine

/-- One reduction: if bit 31 of the shifted word is 1, xor the generator in (R100). -/
def reduceWith (g t : Word) : Word := if t.getLsbD 31 then t ^^^ g else t

/-- `PassBit(s, b)` for the generator `g` (R100): shift left by one, the bit enters at bit 0, then
reduce on bit 31 of the SHIFTED word (90_conflicts.md C1). -/
def passBitWith (g s : Word) (b : Bool) : Word :=
  reduceWith g (s <<< 1 ||| (BitVec.ofBool b).setWidth 32)

/-- The bits of a byte in the order they enter the divider, most significant first (R101). -/
def bitsMsbFirst (v : Byte) : List Bool := [7, 6, 5, 4, 3, 2, 1, 0].map v.getLsbD

/-- The divider state after a list of bits, first bit first. -/
def passBitsWith (g : Word) (s : Word) (bits : List Bool) : Word := bits.foldl (passBitWith g) s

/-- `PassByte(s, v)` for the generator `g` (R101). -/
def passByteWith (g s : Word) (v : Byte) : Word := passBitsWith g s (bitsMsbFirst v)

/-- `PassBit(s, b)` of the block (R100, R102). -/
def passBit (s : Word) (b : Bool) : Word := passBitWith Config.poly s b

/-- `PassByte(s, v)` of the block (R101, R102). -/
def passByte (s : Word) (v : Byte) : Word := passByteWith Config.poly s v

/-- CLRCRC (R105). -/
def execClrcrc (s : State) : Host.Outcome State Fault Refusal := respond 0 (s.setCrc 0)

/-- LDCRC val (R106). -/
def execLdcrc (val : Word) (s : State) : Host.Outcome State Fault Refusal :=
  respond val (s.setCrc val)

/-- PASSBIT bit (R107). -/
def execPassbit (bit : Bool) (s : State) : Host.Outcome State Fault Refusal :=
  respond (passBit s.crc bit) (s.setCrc (passBit s.crc bit))

/-- PASSBYTE byte (R108). -/
def execPassbyte (byte : Byte) (s : State) : Host.Outcome State Fault Refusal :=
  respond (passByte s.crc byte) (s.setCrc (passByte s.crc byte))

end Sys2Proof.Machine
end

