-- ==== Sys2Proof/Machine/Codec.lean ====
section
/-! DEFINITION. The signature codec: EMBED, CHECK (42_codec.md). -/

namespace Sys2Proof.Machine

/-- The divider state after bytes 0 to `n - 1` of a buffer, from `CRC_INIT` (R140, R143, R145). -/
def passBytesWith (g : Word) (m : Memory) (n : Nat) : Word :=
  (List.range n).foldl (fun c a => passByteWith g c (m.read a)) Config.crcInit

/-- `CheckFn(buf)`: the residue of all 68 bytes (R143). -/
def checkFnWith (g : Word) (m : Memory) : Word := passBytesWith g m 68

/-- Steps 1 to 3 of `EmbedFn` (R140, R141): 512 payload bits, the 513th payload bit, then 31 zero
bits to flush the checksum out. -/
def checksumWith (g : Word) (m : Memory) : Word :=
  passBitsWith g (passBitWith g (passBytesWith g m 64) ((m.read 64).getLsbD 7)) (List.replicate 31 false)

/-- Step 4 of `EmbedFn` (R140, R142): the checksum goes into bits 6..0 of byte 64 and bytes 65 to 67,
most significant first; bit 7 of byte 64 is kept. -/
def writeChecksum (m : Memory) (c : Word) : Memory :=
  (((m.write 64 ((m.read 64 &&& 0x80) ||| (c.extractLsb' 24 7).setWidth 8)).write 65
    (c.extractLsb' 16 8)).write 66 (c.extractLsb' 8 8)).write 67 (c.extractLsb' 0 8)

/-- `EmbedFn(buf)`: the new buffer and the checksum (R140). -/
def embedFnWith (g : Word) (m : Memory) : Memory × Word :=
  (writeChecksum m (checksumWith g m), checksumWith g m)

/-- `CheckFn` of the block (R143). -/
def checkFn (m : Memory) : Word := checkFnWith Config.poly m

/-- `EmbedFn` of the block (R140). -/
def embedFn (m : Memory) : Memory × Word := embedFnWith Config.poly m

/-- EMBED (R148). -/
def execEmbed (s : State) : Host.Outcome State Fault Refusal :=
  respond (embedFn s.sig).2 ((s.setSig (embedFn s.sig).1).setCrc (embedFn s.sig).2)

/-- CHECK (R149). -/
def execCheck (s : State) : Host.Outcome State Fault Refusal :=
  respond (checkFn s.sig)
    (((s.setCrc (checkFn s.sig)).setSynd (checkFn s.sig)).setAttempt Config.notFound false)

end Sys2Proof.Machine
end

