-- ==== Sys2Proof/Machine/Table.lean ====
section
/-! DEFINITION. The syndrome table and its sorted view: BUILD, RDTAB, RDSORTS, RDSORTP
(43_syndrome_table.md). -/

namespace Sys2Proof.Machine

/-! ## The contents of `SYNTAB` -/

/-- The entry of position `p` by its definition (R160): `CheckFn` of the all-zero reference buffer
with position `p` alone flipped. -/
def probeWith (g : Word) (p : Nat) : Word := checkFnWith g (Memory.flip [] p)

/-- `n` more entries in front of a table, `x` the first of them, each next the `PassBit(·, 0)` of the
one after it (R164). -/
def powersWith (g : Word) : Nat → Word → List Word → List Word
  | 0, _, acc => acc
  | n + 1, x, acc => powersWith g n (passBitWith g x false) (x :: acc)

theorem powersWith_length (g : Word) (n : Nat) :
    ∀ x acc, (powersWith g n x acc).length = n + acc.length := by
  induction n with
  | zero => intros; simp [powersWith]
  | succ n ih => intro x acc; rw [powersWith, ih]; simp; omega

/-- `SYNTAB` for the generator `g`, position 0 first, by the recurrence of R164: entry 543 is 1, and
entry `p - 1` is `PassBit` of entry `p` with bit 0. I11 allows it for the definition `probeWith`,
which it agrees with (log entry 6). -/
def syntabWith (g : Word) : Vector Word 544 :=
  ⟨(powersWith g 544 1 []).toArray, by simp [powersWith_length]⟩

/-! ## The sorted view -/

/-- A pair of the sorted view (R165, R167). -/
structure SortedPair where
  syn : Word
  pos : BitVec 10
  deriving DecidableEq, Repr

/-- Merge the pair `x`, followed by whatever `rest` makes of the remaining pairs, into a run. -/
def mergeHead (x : SortedPair) (rest : List SortedPair → List SortedPair) :
    List SortedPair → List SortedPair
  | [] => x :: rest []
  | y :: ys => if x.syn.ule y.syn then x :: rest (y :: ys) else y :: mergeHead x rest ys

/-- Merge two runs that ascend by syndrome into one. -/
def mergeRuns : List SortedPair → List SortedPair → List SortedPair
  | [] => id
  | x :: xs => mergeHead x (mergeRuns xs)

/-- Merge neighbouring runs two by two. -/
def mergePairs : List (List SortedPair) → List (List SortedPair)
  | a :: b :: runs => mergeRuns a b :: mergePairs runs
  | runs => runs

/-- `n` rounds of merging neighbouring runs. -/
def mergeRounds : Nat → List (List SortedPair) → List (List SortedPair)
  | 0, runs => runs
  | n + 1, runs => mergeRounds n (mergePairs runs)

/-- Sort up to 2^10 = 1024 pairs by syndrome, ascending and unsigned (R165): ten rounds of merging
leave one run. -/
def sortPairs (l : List SortedPair) : List SortedPair := (mergeRounds 10 (l.map ([·]))).flatten

theorem mergeHead_length (x : SortedPair) (rest : List SortedPair → List SortedPair) (n : Nat)
    (h : ∀ ys, (rest ys).length = n + ys.length) :
    ∀ ys, (mergeHead x rest ys).length = n + 1 + ys.length
  | [] => by simp [mergeHead, h]
  | y :: ys => by
    have ih := mergeHead_length x rest n h ys
    by_cases hc : x.syn.ule y.syn = true <;> simp [mergeHead, hc, h, ih] <;> omega

theorem mergeRuns_length : ∀ xs ys : List SortedPair, (mergeRuns xs ys).length = xs.length + ys.length
  | [], ys => by simp [mergeRuns]
  | x :: xs, ys => mergeHead_length x (mergeRuns xs) xs.length (mergeRuns_length xs) ys

theorem mergePairs_length : ∀ runs, (mergePairs runs).flatten.length = runs.flatten.length
  | [] => rfl
  | [_] => rfl
  | a :: b :: runs => by simp [mergePairs, mergeRuns_length, mergePairs_length runs]; omega

theorem mergeRounds_length (n : Nat) :
    ∀ runs, (mergeRounds n runs).flatten.length = runs.flatten.length := by
  induction n with
  | zero => intro runs; rfl
  | succ n ih => intro runs; rw [mergeRounds, ih, mergePairs_length]

theorem sortPairs_length (l : List SortedPair) : (sortPairs l).length = l.length := by
  rw [sortPairs, mergeRounds_length]
  induction l with
  | nil => rfl
  | cons x l ih => simp_all

/-- The 544 pairs `(SYNTAB[p], p)` in the order of the positions (R165). -/
def pairsOf (t : Vector Word 544) : List SortedPair :=
  t.toList.zipIdx.map fun e => ⟨e.1, BitVec.ofNat 10 e.2⟩

/-- `SORTED`, a function of `SYNTAB` (R31, R165). -/
def sortedView (t : Vector Word 544) : Vector SortedPair 544 :=
  ⟨(sortPairs (pairsOf t)).toArray, by simp [sortPairs_length, pairsOf]⟩

/-! ## The builder's check -/

/-- The syndromes of the list ascend strictly, all above `lo`. -/
def strictlyAbove (lo : Word) : List SortedPair → Bool
  | [] => true
  | x :: xs => lo.ult x.syn && strictlyAbove x.syn xs

/-- No two positions share a syndrome and no syndrome is zero (R169): in the sorted view the
syndromes ascend strictly from above zero. -/
def tableSound (t : Vector Word 544) : Bool := strictlyAbove 0 (sortedView t).toList

/-! ## The commands -/

/-- What BUILD does once admitted, for the generator `g` (R170): install the table, or report the
configuration error (R169, R274). -/
def buildWith (g : Word) (s : State) : Host.Outcome State Fault Refusal :=
  if tableSound (syntabWith g) then respond 0 ((s.installTable (syntabWith g)).setCrc 0)
  else raise .eCfg s.setConfigError

/-- BUILD (R170, R171). -/
def execBuild (s : State) : Host.Outcome State Fault Refusal :=
  withoutTable s (buildWith Config.poly s)

/-- RDTAB idx (R172). -/
def execRdtab (idx : BitVec 10) (s : State) : Host.Outcome State Fault Refusal :=
  withIndex idx s fun p => withTable s fun t => respond t[p] s

/-- RDSORTS idx (R173). -/
def execRdsorts (idx : BitVec 10) (s : State) : Host.Outcome State Fault Refusal :=
  withIndex idx s fun i => withTable s fun t => respond (sortedView t)[i].syn s

/-- RDSORTP idx (R174). -/
def execRdsortp (idx : BitVec 10) (s : State) : Host.Outcome State Fault Refusal :=
  withIndex idx s fun i => withTable s fun t => respond ((sortedView t)[i].pos.setWidth 32) s

end Sys2Proof.Machine
end

