-- ==== Sys2Proof/Machine/Locator.lean ====
section
/-! DEFINITION. The syndrome locator and the single-error corrector: FIND, CORRECT
(44_locator_corrector.md). -/

namespace Sys2Proof.Machine

/-- `FindBit(x)` (R190): the position whose table entry equals `x` in all 32 bits, else `NOT_FOUND`.
The search over `SYNTAB` is the rule's own equivalent of the one over `SORTED` (R192, I10; log
entry 7). -/
def findBit (t : Vector Word 544) (x : Word) : BitVec 10 :=
  match t.toList.findIdx? (· == x) with
  | some p => BitVec.ofNat 10 p
  | none => Config.notFound

/-- FIND val (R194). -/
def execFind (val : Word) (s : State) : Host.Outcome State Fault Refusal :=
  withTable s fun t => respond ((findBit t val).setWidth 32) s

/-- CORRECT's attempt with no bit flipped: `FIX <- 0; POS <- 0x3FF` and the class (R200). -/
def noCorrection (c : CorrectionClass) (s : State) : Host.Outcome State Fault Refusal :=
  respond (correctionData c Config.notFound) (s.setAttempt Config.notFound false)

/-- CORRECT's correction at position `p` with table entry `e` (R200): flip the bit, xor the entry out
of `SYND`, record the position. -/
def applyCorrection (p : BitVec 10) (e : Word) (s : State) : Host.Outcome State Fault Refusal :=
  respond (correctionData .fixed p)
    (((s.setSig (s.sig.flip p.toNat)).setSynd (s.synd ^^^ e)).setAttempt p true)

/-- CORRECT (R200). -/
def execCorrect (s : State) : Host.Outcome State Fault Refusal :=
  withTable s fun t =>
    if s.synd = 0 then noCorrection .good s
    else if h : (findBit t s.synd).toNat < 544 then
      applyCorrection (findBit t s.synd) (t[(findBit t s.synd).toNat]'h) s
    else noCorrection .stillBad s

end Sys2Proof.Machine
end

