-- ==== Sys2Proof/Machine/SigBuf.lean ====
section
/-! DEFINITION. The signature buffer and the bit selector: WRSIG, RDSIG, FLIPBIT
(41_sigbuf_bitselect.md). -/

namespace Sys2Proof.Machine

/-- WRSIG addr, byte (R123). -/
def execWrsig (addr : BitVec 7) (byte : Byte) (s : State) : Host.Outcome State Fault Refusal :=
  withAddr addr s fun a => respond 0 (s.setSig (s.sig.write a byte))

/-- RDSIG addr (R124). -/
def execRdsig (addr : BitVec 7) (s : State) : Host.Outcome State Fault Refusal :=
  withAddr addr s fun a => respond ((s.sig.read a).setWidth 32) s

/-- FLIPBIT idx (R125); the response is the byte AFTER the flip. -/
def execFlipbit (idx : BitVec 10) (s : State) : Host.Outcome State Fault Refusal :=
  withIndex idx s fun p =>
    respond (((s.sig.flip p).read (byteidx p)).setWidth 32) (s.setSig (s.sig.flip p))

end Sys2Proof.Machine
end

