-- ==== Sys2Proof/Machine/System.lean ====
section
/-! DEFINITION. The system commands NOP, SRST, RDREG (45_system.md). -/

namespace Sys2Proof.Machine

/-- NOP (R220). -/
def execNop (s : State) : Host.Outcome State Fault Refusal := respond 0 s

/-- SRST (R221, R302): the effect of a hard reset, then the response. -/
def execSrst (s : State) : Host.Outcome State Fault Refusal := respond 0 s.resetBlock

/-- RDREG reg (R222). -/
def execRdreg (reg : BitVec 4) (s : State) : Host.Outcome State Fault Refusal :=
  match readReg reg s with
  | some v => respond v s
  | none => raise .eAddr s

end Sys2Proof.Machine
end

