-- ==== Sys2Proof/Machine/Dispatch.lean ====
section
/-! DEFINITION. The dispatch of a command to its meaning, one arm per constructor of Instr. -/

namespace Sys2Proof.Machine

/-- Execute one command. -/
def exec (i : Instr) (s : State) : Host.Outcome State Fault Refusal :=
  match i with
  | .nop => Sys2Proof.Machine.execNop s
  | .srst => Sys2Proof.Machine.execSrst s
  | .rdreg reg => Sys2Proof.Machine.execRdreg reg s
  | .clrcrc => Sys2Proof.Machine.execClrcrc s
  | .ldcrc val => Sys2Proof.Machine.execLdcrc val s
  | .passbit bit => Sys2Proof.Machine.execPassbit bit s
  | .passbyte byte => Sys2Proof.Machine.execPassbyte byte s
  | .wrsig addr byte => Sys2Proof.Machine.execWrsig addr byte s
  | .rdsig addr => Sys2Proof.Machine.execRdsig addr s
  | .flipbit idx => Sys2Proof.Machine.execFlipbit idx s
  | .embed => Sys2Proof.Machine.execEmbed s
  | .check => Sys2Proof.Machine.execCheck s
  | .build => Sys2Proof.Machine.execBuild s
  | .rdtab idx => Sys2Proof.Machine.execRdtab idx s
  | .rdsorts idx => Sys2Proof.Machine.execRdsorts idx s
  | .rdsortp idx => Sys2Proof.Machine.execRdsortp idx s
  | .find val => Sys2Proof.Machine.execFind val s
  | .correct => Sys2Proof.Machine.execCorrect s

end Sys2Proof.Machine
end

