-- ==== Sys2Proof/Machine/Step.lean ====
section
/-! DEFINITION. One step of the block: take what the host presents at the port and execute it (R13,
R59, R300, R321). -/

namespace Sys2Proof.Machine

/-- One transaction: a command word is decoded and executed, or refused; a hard reset resets; with
nothing presented the block idles; a broken handshake is outside the model (I8). -/
def step (s : State) : Host.Outcome State Fault Refusal :=
  match takeInput s with
  | .nothing => idle s
  | .hardReset s' => hardReset s'
  | .violation => .fault .handshakeViolation
  | .command w s' =>
    match decode w with
    | .ok i => exec i s'
    | .error e => refuseWord e s'

/-- `s` with the command whose low `nbits` bits are `w` presented as the next input, so that the next
step executes it. -/
def State.withFetchWord (s : State) (nbits w : Nat) : State :=
  presentCommand s (BitVec.ofNat 40 (w % 2 ^ nbits))

end Sys2Proof.Machine
end

