-- ==== Sys2Proof/Safety.lean ====
section
/-! DEFINITION. What counts as a safe run: the invariants of the state (R35), runs with no refused
command (R279), valid signatures (R146) and a fresh syndrome (R312). -/

namespace Sys2Proof.Machine

/-- What holds in every state reachable from reset (R35 (a) to (g)), with the canonical form of `SIG`
and the range of `ECODE` (R271). R35 (h) is about the last command and is stated on `exec`. -/
structure State.Inv (s : State) : Prop where
  /-- (a) `SYND[31] = 0` -/
  syndTop : s.synd.getLsbD 31 = false
  /-- (b), (c) `FIX = 1` implies `POS <= 543` -/
  posWhenFixed : s.fix = true → s.pos.toNat < 544
  /-- (b), (c) `FIX = 0` implies `POS = 0x3FF` -/
  posWhenNotFixed : s.fix = false → s.pos = 0x3FF
  /-- (d) `CE = 1` implies `TV = 0` -/
  noTableOnConfigError : s.ce = true → s.tv = false
  /-- (e) `ERR = 0` if and only if `ECODE = 0` -/
  errIffCode : s.err = false ↔ s.ecode = 0
  /-- `ECODE` is one of the codes 0 to 6 (R271) -/
  codeRange : s.ecode.toNat ≤ 6
  /-- (f) `CE = 1` implies `ERR = 1` -/
  configErrorRecorded : s.ce = true → s.err = true
  /-- (g) if `TV = 1` then `SYNTAB` is the table of R160 -/
  tableRight : s.tv = true → ∃ t, s.tab = some t ∧ ∀ p : Fin 544, t[p] = probeWith Config.poly p
  /-- `SIG` is in canonical form, within addresses 0 to 67 -/
  sigCanonical : s.sig.wf = true

/-- No command has been refused since reset: what R279 advises a claim about a host program to
require, since the model takes a refusal as R272 gives it (log entry 4). -/
abbrev State.noRefusal (s : State) : Prop := s.err = false

/-- A buffer with zero residue (R144, R146). -/
abbrev Memory.valid (m : Memory) : Prop := checkFn m = 0

/-- `SYND` is the syndrome of the buffer as it stands (R312): what the host's duty "CHECK immediately
before CORRECT" establishes. -/
abbrev State.syndFresh (s : State) : Prop := s.synd = checkFn s.sig

/-- The table is built and is the one of this block's generator. -/
abbrev State.tableReady (s : State) : Prop :=
  s.ce = false ∧ s.tv = true ∧ s.tab = some (syntabWith Config.poly)

end Sys2Proof.Machine
end

