-- ==== Sys2Proof/Certificates/Slice0/Obligations.lean ====
section
/-! DEFINITION. The statements about the model, for the provers. Each docstring names the rule of
spec/ it formalises. -/

open Sys2Proof Sys2Proof.Machine

namespace Sys2Proof.Claims

/-- The rows of spec/opcode_table.json as (mask, match), in its order. -/
def tableRows : List (CommandWord × CommandWord) :=
  [(0xFFFFFFFFFF, 0x0000000000),
   (0xFFFFFFFFFF, 0x0100000000),
   (0xFFFFFFFFF0, 0x0200000000),
   (0xFFFFFFFFFF, 0x1000000000),
   (0xFF00000000, 0x1100000000),
   (0xFFFFFFFFFE, 0x1200000000),
   (0xFFFFFFFF00, 0x1300000000),
   (0xFFFFFF8000, 0x2000000000),
   (0xFFFFFFFF80, 0x2100000000),
   (0xFFFFFFFC00, 0x2200000000),
   (0xFFFFFFFFFF, 0x3000000000),
   (0xFFFFFFFFFF, 0x3100000000),
   (0xFFFFFFFFFF, 0x4000000000),
   (0xFFFFFFFC00, 0x4100000000),
   (0xFFFFFFFC00, 0x4200000000),
   (0xFFFFFFFC00, 0x4300000000),
   (0xFF00000000, 0x5000000000),
   (0xFFFFFFFFFF, 0x5100000000)]

/-- The eighteen opcodes of R75. -/
def definedOpcodes : List (BitVec 8) :=
  [0x00, 0x01, 0x02, 0x10, 0x11, 0x12, 0x13, 0x20, 0x21, 0x22, 0x30, 0x31, 0x40, 0x41, 0x42, 0x43, 0x50, 0x51]

/-- `cmd[39:32]` (R70). -/
def opByte (w : CommandWord) : BitVec 8 := w.extractLsb' 32 8

/-- The state after a command that answered `(OK, d)` and changed nothing more. -/
def answered (d : Word) (s : State) : State := { s with responses := s.responses ++ [⟨.ok, d⟩] }

/-- The state after a refusal with status `e`, whose number is `code` (R271, R272). -/
def refused (e : StatusCode) (code : BitVec 4) (s : State) : State :=
  { s with ecode := if s.err then s.ecode else code, err := true,
           responses := s.responses ++ [⟨e, 0⟩] }

/-- The commands that read the syndrome table (R273 check 5). -/
def readsTable (i : Instr) : Prop :=
  (∃ p, i = .rdtab p) ∨ (∃ p, i = .rdsorts p) ∨ (∃ p, i = .rdsortp p) ∨ (∃ v, i = .find v) ∨ i = .correct

/-- Two positions share a syndrome, or some syndrome is zero: the condition BUILD fails on (R169). -/
def ambiguous (g : Word) : Prop :=
  (∃ p q : Fin 544, p ≠ q ∧ probeWith g p = probeWith g q) ∨ ∃ p : Fin 544, probeWith g p = 0

/-- The commands that may change `CRC` (R22, R82). -/
def writesCrc (i : Instr) : Prop :=
  i = .srst ∨ i = .clrcrc ∨ (∃ v, i = .ldcrc v) ∨ (∃ b, i = .passbit b) ∨ (∃ v, i = .passbyte v) ∨
    i = .embed ∨ i = .check ∨ i = .build

/-- The bits of a byte, most significant first, pushed into the divider one PassBit at a time. -/
def eightSteps (s : Word) (v : Byte) : Word :=
  passBit (passBit (passBit (passBit (passBit (passBit (passBit (passBit s
    (v.getLsbD 7)) (v.getLsbD 6)) (v.getLsbD 5)) (v.getLsbD 4)) (v.getLsbD 3)) (v.getLsbD 2))
    (v.getLsbD 1)) (v.getLsbD 0)

/-- The divider state after signature positions 0 to `n - 1` of a buffer have entered, from zero. -/
def residueOfPositions (m : Memory) (n : Nat) : Word :=
  (List.range n).foldl (fun c p => passBit c (m.getbit p)) 0

/-- A word read as a polynomial over GF(2), bit `i` the coefficient of x^i (R102, R103). -/
def Represents (w : Word) (f : Polynomial (ZMod 2)) : Prop :=
  f = ∑ i ∈ Finset.range 32, if w.getLsbD i then (Polynomial.X : Polynomial (ZMod 2)) ^ i else 0

/-- The first `n` signature positions of a buffer read as a polynomial, position 0 the highest power. -/
def RepresentsBuffer (m : Memory) (n : Nat) (f : Polynomial (ZMod 2)) : Prop :=
  f = ∑ p ∈ Finset.range n,
    if m.getbit p then (Polynomial.X : Polynomial (ZMod 2)) ^ (n - 1 - p) else 0

end Sys2Proof.Claims

open Sys2Proof.Claims

/-! ## Encoding -/

/-- One word of each row, written out from the spec's own examples, and some words that are none
(R75, R77, R78, R105 to R108, R123 to R125, R172, R194). -/
def Obligations.SpecWordsDecode : Prop :=
  decode 0x0000000000 = .ok .nop ∧ decode 0x0100000000 = .ok .srst ∧
  decode 0x0200000003 = .ok (.rdreg 3) ∧ decode 0x1000000000 = .ok .clrcrc ∧
  decode 0x1140000000 = .ok (.ldcrc 0x40000000) ∧ decode 0x1200000001 = .ok (.passbit true) ∧
  decode 0x13000000A5 = .ok (.passbyte 0xA5) ∧ decode 0x2000004080 = .ok (.wrsig 64 0x80) ∧
  decode 0x2100000040 = .ok (.rdsig 64) ∧ decode 0x2200000064 = .ok (.flipbit 100) ∧
  decode 0x3000000000 = .ok .embed ∧ decode 0x3100000000 = .ok .check ∧
  decode 0x4000000000 = .ok .build ∧ decode 0x4100000200 = .ok (.rdtab 512) ∧
  decode 0x420000021F = .ok (.rdsorts 543) ∧ decode 0x430000021F = .ok (.rdsortp 543) ∧
  decode 0x50483BF981 = .ok (.find 0x483BF981) ∧ decode 0x5100000000 = .ok .correct ∧
  decode 0x0300000000 = .error .undefinedOpcode ∧ decode 0xFF12345678 = .error .undefinedOpcode ∧
  decode 0x1200000002 = .error .reservedBits ∧ decode 0x2000008000 = .error .reservedBits

/-- Decode and encode agree: the word of every command, with every operand at every value its field
admits (out-of-range ones too), decodes to that command (R70, R73 to R75). -/
def Obligations.DecodeEncodeAgree : Prop := ∀ i : Instr, decode (encode i) = .ok i

/-- No word but its own decodes to a command: there are no aliases (R77 to R79). -/
def Obligations.DecodedWordIsItsEncoding : Prop :=
  ∀ (w : CommandWord) (i : Instr), decode w = .ok i → encode i = w

/-- The decoder accepts a word exactly if it matches a row of the opcode table, calls it an undefined
opcode exactly if its `op` is none of the eighteen, and calls a reserved bit exactly if the row of
its `op` does not match (R75 to R78, R76 checks 1 and 2). -/
def Obligations.DecoderFollowsTheOpcodeTable : Prop :=
  ∀ w : CommandWord,
    ((∃ i, decode w = .ok i) ↔ ∃ r ∈ tableRows, w &&& r.1 = r.2) ∧
    (decode w = .error .undefinedOpcode ↔ opByte w ∉ definedOpcodes) ∧
    (decode w = .error .reservedBits ↔ ∃ r ∈ tableRows, opByte w = opByte r.2 ∧ w &&& r.1 ≠ r.2)

/-! ## The step -/

/-- A step runs the decoded command: it is `exec` of it on the state with the word taken from the
port, and adds nothing (R13, R59, R70). -/
def Obligations.StepRunsTheDecodedCommand : Prop :=
  ∀ (s : State) (w : CommandWord) (rest : List PortInput) (i : Instr),
    s.inputs = .command w :: rest → decode w = .ok i → step s = exec i { s with inputs := rest }

/-- Every opcode that is not one of the eighteen is refused with `E_OPC` whatever `arg` holds, no word
but NOP's own is NOP, and no word is without a behaviour (R77). -/
def Obligations.UndefinedOpcodeRefused : Prop :=
  (∀ (s : State) (w : CommandWord) (rest : List PortInput),
    s.inputs = .command w :: rest → opByte w ∉ definedOpcodes →
      step s = .next (refused .eOpc 1 { s with inputs := rest })) ∧
  (∀ w : CommandWord, decode w = .ok .nop → w = 0) ∧
  (∀ (s : State) (w : CommandWord) (rest : List PortInput),
    s.inputs = .command w :: rest → ∃ t, step s = .next t)

/-- A defined opcode with a reserved bit of `arg` set is refused with `E_ARG`; it is not executed with
the bit ignored (R78). -/
def Obligations.ReservedBitRefused : Prop :=
  (∀ (s : State) (w : CommandWord) (rest : List PortInput) (mask pattern : CommandWord),
    s.inputs = .command w :: rest → (mask, pattern) ∈ tableRows → opByte w = opByte pattern →
    w &&& mask ≠ pattern → step s = .next (refused .eArg 2 { s with inputs := rest })) ∧
  decode 0x1200000002 = .error .reservedBits ∧ decode 0x1200000001 = .ok (.passbit true)

/-- Hard reset between commands puts every piece of state at its reset value and answers nothing
(R300, R301, R34). -/
def Obligations.HardResetRestoresTheResetValues : Prop :=
  ∀ (s : State) (rest : List PortInput), s.inputs = .hardReset :: rest →
    ∃ t, step s = .next t ∧ t.crc = 0 ∧ t.synd = 0 ∧ t.pos = 0x3FF ∧ t.tv = false ∧ t.ce = false ∧
      t.err = false ∧ t.fix = false ∧ t.ecode = 0 ∧ t.status = 0x00000008 ∧
      (∀ a, t.sig.read a = 0) ∧ t.tab = none ∧ t.inputs = rest ∧ t.responses = s.responses

/-- With nothing presented the block does nothing on its own (R300). -/
def Obligations.IdleBlockStays : Prop := ∀ s : State, s.inputs = [] → step s = .next s

/-- A broken handshake is outside the model and stops it (I8 of 93_implementation_defined.md; log
entry 11). The model's only fault. -/
def Obligations.BrokenHandshakeFaults : Prop :=
  ∀ (s : State) (rest : List PortInput), s.inputs = .handshakeViolation :: rest →
    step s = .fault .handshakeViolation

/-- The block cannot hang and has no stuck state: unless the host breaks the handshake, every step
answers a next state (R321). -/
def Obligations.EveryStepAnswers : Prop :=
  ∀ s : State, (∀ rest, s.inputs ≠ .handshakeViolation :: rest) → ∃ t, step s = .next t

/-- Every command word, in every state, produces exactly one response, whose data is 0 unless its
status is `OK`; the response word is the status in bits 35:32 and the data in bits 31:0 (R71). -/
def Obligations.OneResponsePerCommand : Prop :=
  (∀ (s : State) (w : CommandWord) (rest : List PortInput), s.inputs = .command w :: rest →
    ∃ t r, step s = .next t ∧ t.responses = s.responses ++ [r] ∧ t.inputs = rest ∧
      (r.st ≠ .ok → r.data = 0)) ∧
  (∀ r : Response, r.word.extractLsb' 32 4 = r.st.code ∧ r.word.extractLsb' 0 32 = r.data) ∧
  StatusCode.ok.code = 0

/-! ## Reset and invariants -/

/-- After reset every piece of state has the value of R34's table; the table is absent and a read of
it is refused. -/
def Obligations.ResetLeavesTheSpecValues : Prop :=
  State.reset.crc = 0x00000000 ∧ State.reset.synd = 0x00000000 ∧ State.reset.z = true ∧
  State.reset.pos = 0x3FF ∧ State.reset.tv = false ∧ State.reset.ce = false ∧
  State.reset.err = false ∧ State.reset.fix = false ∧ State.reset.ecode = 0 ∧
  State.reset.status = 0x00000008 ∧ readReg 4 State.reset = some 0xC1E52417 ∧
  readReg 5 State.reset = some 0x00440220 ∧ (∀ a, a < 68 → State.reset.sig.read a = 0x00) ∧
  checkFn State.reset.sig = 0 ∧ State.reset.tab = none ∧
  (∀ idx : BitVec 10, idx.toNat < 544 →
    exec (.rdtab idx) State.reset = .next (refused .eNotab 5 State.reset) ∧
    exec (.rdsorts idx) State.reset = .next (refused .eNotab 5 State.reset) ∧
    exec (.rdsortp idx) State.reset = .next (refused .eNotab 5 State.reset))

/-- The invariant holds after reset (R34, R35). -/
def Obligations.ResetSatisfiesTheInvariant : Prop := State.reset.Inv

/-- Every step keeps the invariant: R35 (a) to (g), the canonical form of `SIG` and the range of
`ECODE`. In particular the table, once built, is the one of R160. -/
def Obligations.StepKeepsTheInvariant : Prop :=
  ∀ s t : State, s.Inv → step s = .next t → t.Inv

/-- Bit 31 of `CRC` is 0 after every command that writes it except LDCRC of a value with bit 31 set:
a command after which it is 1 either left `CRC` alone or is that LDCRC (R22, R35 (h)). -/
def Obligations.CrcTopBitOnlyFromLdcrc : Prop :=
  ∀ (i : Instr) (s t : State), exec i s = .next t → t.crc.getLsbD 31 = true →
    (¬ writesCrc i ∧ t.crc = s.crc) ∨ (i = .build ∧ t.crc = s.crc) ∨
      ∃ v, i = .ldcrc v ∧ v.getLsbD 31 = true ∧ t.crc = v

/-- Once `TV` is 1 no command but SRST changes `TV` or the table (R31, R168). -/
def Obligations.BuiltTableIsImmutable : Prop :=
  ∀ (i : Instr) (s t : State), s.tv = true → i ≠ .srst → exec i s = .next t →
    t.tv = true ∧ t.tab = s.tab

/-- `ERR`, the first code in `ECODE`, and `CE` are sticky: no command but SRST clears or changes them
once set (R26, R277). -/
def Obligations.ErrorRecordIsSticky : Prop :=
  ∀ (i : Instr) (s t : State), i ≠ .srst → exec i s = .next t →
    (s.err = true → t.err = true ∧ t.ecode = s.ecode) ∧ (s.ce = true → t.ce = true)

/-- The frame of every command (R82): each register, flag, the table and each byte of `SIG` changes
only under the commands the rule names; `ERR` and `ECODE` only under SRST and under a command that is
refused. The byte a command stores to is computed as its meaning computes it. -/
def Obligations.OnlyTheNamedCommandsWrite : Prop :=
  ∀ (i : Instr) (s t : State), s.sig.wf = true → exec i s = .next t →
    (t.crc ≠ s.crc → writesCrc i) ∧
    (t.synd ≠ s.synd → i = .srst ∨ i = .check ∨ i = .correct) ∧
    (t.pos ≠ s.pos → i = .srst ∨ i = .check ∨ i = .correct) ∧
    (t.fix ≠ s.fix → i = .srst ∨ i = .check ∨ i = .correct) ∧
    (t.tv ≠ s.tv → i = .srst ∨ i = .build) ∧
    (t.tab ≠ s.tab → i = .srst ∨ i = .build) ∧
    (t.ce ≠ s.ce → i = .srst ∨ i = .build) ∧
    (t.err ≠ s.err ∨ t.ecode ≠ s.ecode →
      i = .srst ∨ ∃ r, t.responses = s.responses ++ [r] ∧ r.st ≠ .ok) ∧
    t.inputs = s.inputs ∧
    (∀ a, t.sig.read a ≠ s.sig.read a →
      i = .srst ∨ (∃ addr v, i = .wrsig addr v ∧ a = addr.toNat) ∨
      (∃ idx, i = .flipbit idx ∧ a = byteidx idx.toNat) ∨
      (i = .embed ∧ 64 ≤ a ∧ a ≤ 67) ∨
      (i = .correct ∧ a = byteidx (findBit s.table s.synd).toNat))

/-- A refused command changes only `ERR` and `ECODE`, which keeps the first code, and is answered with
its code and 0 (R272, R82). The rule's one exception, a BUILD that finds a configuration error, does
not arise with this block's generator (R166); `BuilderRejectsExactlyAmbiguousTables` states it. -/
def Obligations.RefusalChangesOnlyTheErrorRecord : Prop :=
  ∀ (i : Instr) (s t : State) (r : Response), exec i s = .next t →
    t.responses = s.responses ++ [r] → r.st ≠ .ok → t = refused r.st r.st.code s

/-- Which status a command is answered with: the checks 3 to 6 of R273 in their order; check 7 never
fails with this block's generator (R166). -/
def Obligations.AdmissionChecksInOrder : Prop :=
  ∀ (i : Instr) (s : State), ∃ t r, exec i s = .next t ∧ t.responses = s.responses ++ [r] ∧
    (i.wf = false → r.st = .eAddr) ∧
    (i.wf = true → s.ce = true → (readsTable i ∨ i = .build) → r.st = .eCfg) ∧
    (i.wf = true → s.ce = false → s.tv = false → readsTable i → r.st = .eNotab) ∧
    (i.wf = true → s.ce = false → s.tv = true → i = .build → r.st = .eState) ∧
    (i.wf = true → s.ce = false → s.tv = false → i = .build → r.st = .ok) ∧
    (i.wf = true → s.ce = false → s.tv = true → readsTable i → r.st = .ok) ∧
    (i.wf = true → ¬ readsTable i → i ≠ .build → r.st = .ok)

/-- The layout of `STATUS`, bit by bit (R25). -/
def Obligations.StatusWordLayout : Prop :=
  ∀ s : State,
    s.status.getLsbD 0 = s.tv ∧ s.status.getLsbD 1 = s.ce ∧ s.status.getLsbD 2 = s.err ∧
    s.status.getLsbD 3 = decide (s.synd = 0) ∧ s.status.getLsbD 4 = s.fix ∧
    (∀ k, 5 ≤ k → k ≤ 7 → s.status.getLsbD k = false) ∧
    s.status.extractLsb' 8 4 = s.ecode ∧
    (∀ k, 12 ≤ k → s.status.getLsbD k = false)

/-! ## System commands -/

/-- NOP answers 0 and changes nothing (R220). -/
def Obligations.NopDoesNothing : Prop := ∀ s : State, exec .nop s = .next (answered 0 s)

/-- SRST gives every piece of state its reset value and answers 0 (R221, R302). -/
def Obligations.SrstResetsTheBlock : Prop :=
  ∀ s : State, exec .srst s = .next
    { crc := 0, synd := 0, pos := 0x3FF, tv := false, ce := false, err := false, fix := false,
      ecode := 0, sig := [], tab := none, inputs := s.inputs,
      responses := s.responses ++ [⟨.ok, 0⟩] }

/-- RDREG answers the register of its number and changes nothing; 6 to 15 are refused with `E_ADDR`
(R222, R27 to R29). -/
def Obligations.RdregReadsTheNamedRegister : Prop :=
  ∀ s : State,
    exec (.rdreg 0) s = .next (answered s.crc s) ∧ exec (.rdreg 1) s = .next (answered s.synd s) ∧
    exec (.rdreg 2) s = .next (answered (s.pos.setWidth 32) s) ∧
    exec (.rdreg 3) s = .next (answered s.status s) ∧
    exec (.rdreg 4) s = .next (answered 0xC1E52417 s) ∧
    exec (.rdreg 5) s = .next (answered 0x00440220 s) ∧
    (∀ reg : BitVec 4, 6 ≤ reg.toNat → exec (.rdreg reg) s = .next (refused .eAddr 3 s))

/-! ## The divider -/

/-- CLRCRC and LDCRC load `CRC` and answer the new value (R105, R106). -/
def Obligations.ClrcrcAndLdcrcLoadCrc : Prop :=
  ∀ s : State,
    exec .clrcrc s = .next (answered 0 { s with crc := 0 }) ∧
    ∀ v : Word, exec (.ldcrc v) s = .next (answered v { s with crc := v })

/-- PASSBIT in the arithmetic of R100: shift left and drop bit 31, add the bit, and if the result
reaches 2^31 xor the generator; the new `CRC` is answered, nothing else changes (R107). -/
def Obligations.PassbitDividesOneStep : Prop :=
  ∀ (s : State) (b : Bool), ∃ n : Word,
    exec (.passbit b) s = .next (answered n { s with crc := n }) ∧
    n.toNat = (if 2 ^ 31 ≤ (2 * s.crc.toNat) % 2 ^ 32 + b.toNat
      then ((2 * s.crc.toNat) % 2 ^ 32 + b.toNat) ^^^ 0xC1E52417
      else (2 * s.crc.toNat) % 2 ^ 32 + b.toNat)

/-- The equivalent shift-register form of `PassBit` (R109). -/
def Obligations.PassBitShiftRegisterForm : Prop :=
  ∀ (s : Word) (b : Bool),
    (passBit s b).getLsbD 31 = false ∧
    (passBit s b).getLsbD 0 = (b ^^ s.getLsbD 30) ∧
    ∀ i, 1 ≤ i → i ≤ 30 → (passBit s b).getLsbD i =
      (if i ∈ [1, 2, 4, 10, 13, 16, 18, 21, 22, 23, 24, 30] then s.getLsbD (i - 1) ^^ s.getLsbD 30
        else s.getLsbD (i - 1))

/-- `PassByte` is eight sequential calls of `PassBit` on the bits of the byte, most significant first,
and PASSBYTE leaves that in `CRC`, answers it, and changes nothing else (R101, R108). -/
def Obligations.PassbyteIsEightPassbits : Prop :=
  (∀ (s : Word) (v : Byte), passByte s v = eightSteps s v) ∧
  (∀ (s : State) (v : Byte), exec (.passbyte v) s =
    .next (answered (eightSteps s.crc v) { s with crc := eightSteps s.crc v }))

/-- `PassBit` is linear over GF(2), zeros keep a zero state zero, the residue of the xor of two bit
streams is the xor of their residues, and the residue of a bit stream is the xor of the residues of
its set bits taken one at a time (R104). -/
def Obligations.PassBitIsLinear : Prop :=
  (∀ (s1 s2 : Word) (b1 b2 : Bool), passBit (s1 ^^^ s2) (b1 ^^ b2) = passBit s1 b1 ^^^ passBit s2 b2) ∧
  passBit 0 false = 0 ∧
  (∀ (l1 l2 : List Bool) (s1 s2 : Word), l1.length = l2.length →
    (List.zipWith (· ^^ ·) l1 l2).foldl passBit (s1 ^^^ s2) = l1.foldl passBit s1 ^^^ l2.foldl passBit s2) ∧
  (∀ n : Nat, (List.replicate n false).foldl passBit 0 = 0) ∧
  (∀ l : List Bool, l.foldl passBit 0 =
    (List.range l.length).foldl (fun x k => x ^^^
      (if l.getD k false then
        (List.replicate k false ++ true :: List.replicate (l.length - k - 1) false).foldl passBit 0
      else 0)) 0)

/-- For a state word without bit 31, `PassBit(s, b)` is (S(x)·x + b) mod g(x) over GF(2) (R103). -/
def Obligations.PassBitIsDivisionByTheGenerator : Prop :=
  ∀ (s : Word) (b : Bool) (S G R : Polynomial (ZMod 2)), s.getLsbD 31 = false →
    Represents s S → Represents 0xC1E52417 G → Represents (passBit s b) R →
    R = (S * Polynomial.X + (if b then 1 else 0)).modByMonic G

/-! ## The signature buffer -/

/-- WRSIG at a legal address stores its byte there and answers 0; every other byte and everything else
is unchanged (R123). -/
def Obligations.WrsigStoresOneByte : Prop :=
  ∀ (s : State) (addr : BitVec 7) (v : Byte), s.sig.wf = true → addr.toNat < 68 →
    ∃ m : Memory, exec (.wrsig addr v) s = .next (answered 0 { s with sig := m }) ∧
      m.read addr.toNat = v ∧ (∀ a, a ≠ addr.toNat → m.read a = s.sig.read a) ∧ m.wf = true

/-- RDSIG at a legal address answers the byte there and changes nothing (R124). -/
def Obligations.RdsigReadsOneByte : Prop :=
  ∀ (s : State) (addr : BitVec 7), addr.toNat < 68 →
    exec (.rdsig addr) s = .next (answered ((s.sig.read addr.toNat).setWidth 32) s)

/-- FLIPBIT at a legal position inverts that bit of `SIG` and no other, and answers the byte after the
flip (R120, R125). -/
def Obligations.FlipbitInvertsOneBit : Prop :=
  ∀ (s : State) (idx : BitVec 10), s.sig.wf = true → idx.toNat < 544 →
    ∃ m : Memory,
      exec (.flipbit idx) s =
        .next (answered ((m.read (idx.toNat / 8)).setWidth 32) { s with sig := m }) ∧
      m.read (idx.toNat / 8) = s.sig.read (idx.toNat / 8) ^^^ ((0x80 : Byte) >>> (idx.toNat % 8)) ∧
      (∀ a, a ≠ idx.toNat / 8 → m.read a = s.sig.read a) ∧
      m.getbit idx.toNat = !s.sig.getbit idx.toNat ∧
      (∀ q, q ≠ idx.toNat → m.getbit q = s.sig.getbit q) ∧ m.wf = true

/-- What `flip` changes, that it is an involution, and that flips commute (R121). -/
def Obligations.FlipIsAnInvolution : Prop :=
  ∀ (m : Memory) (p q : Nat), m.wf = true → p < 544 → q < 544 →
    (m.flip p).read (p / 8) = m.read (p / 8) ^^^ ((0x80 : Byte) >>> (p % 8)) ∧
    (∀ a, a ≠ p / 8 → (m.flip p).read a = m.read a) ∧
    (m.flip p).flip p = m ∧ (m.flip p).flip q = (m.flip q).flip p

/-- Every command with an operand outside the range it addresses is refused with `E_ADDR`, in every
state, and changes nothing else (R55, R273 check 3). -/
def Obligations.OutOfRangeOperandRefused : Prop :=
  ∀ (s : State) (i : Instr), i.wf = false → exec i s = .next (refused .eAddr 3 s)

/-! ## The codec -/

/-- EMBED: the checksum is the divider's state after the 513 payload bits in the order of their
positions and 31 zero bits; it goes into `CRC`, the answer, bits 6..0 of byte 64 and bytes 65 to 67,
most significant first; the payload and everything else is kept (R140 to R142, R148). -/
def Obligations.EmbedWritesTheChecksum : Prop :=
  ∀ s : State, s.sig.wf = true →
    ∃ (c : Word) (m : Memory),
      c = (List.replicate 31 false).foldl passBit (residueOfPositions s.sig 513) ∧
      exec .embed s = .next (answered c { s with crc := c, sig := m }) ∧
      c.getLsbD 31 = false ∧ m.wf = true ∧
      (m.read 64).getLsbD 7 = (s.sig.read 64).getLsbD 7 ∧
      (m.read 64).extractLsb' 0 7 = c.extractLsb' 24 7 ∧ m.read 65 = c.extractLsb' 16 8 ∧
      m.read 66 = c.extractLsb' 8 8 ∧ m.read 67 = c.extractLsb' 0 8 ∧
      (∀ a, (a < 64 ∨ 67 < a) → m.read a = s.sig.read a)

/-- CHECK: the residue is the divider's state after all 544 bits, position 0 first; it goes into `CRC`,
`SYND` and the answer; `FIX` becomes 0 and `POS` 0x3FF; the buffer is not modified (R143, R149). -/
def Obligations.CheckTakesTheResidue : Prop :=
  ∀ s : State, exec .check s = .next (answered (residueOfPositions s.sig 544)
    { s with crc := residueOfPositions s.sig 544, synd := residueOfPositions s.sig 544,
             fix := false, pos := 0x3FF })

/-- The round trip: `CheckCRC(EmbedCRC(S)) == 0` for every signature (R144). -/
def Obligations.EmbedThenCheckIsZero : Prop :=
  ∀ m : Memory, m.wf = true → checkFn (embedFn m).1 = 0

/-- `EmbedFn` ignores bits 6..0 of byte 64 and bytes 65 to 67, and is idempotent (R147). -/
def Obligations.EmbedIgnoresTheOldChecksum : Prop :=
  (∀ m n : Memory, m.wf = true → n.wf = true → (∀ a, a < 64 → m.read a = n.read a) →
    (m.read 64).getLsbD 7 = (n.read 64).getLsbD 7 → embedFn m = embedFn n) ∧
  (∀ m : Memory, m.wf = true → embedFn (embedFn m).1 = embedFn m)

/-- `CheckFn(buf)` is B(x) mod g(x) of the whole buffer, and the checksum of `EmbedFn` is M(x)·x^31
mod g(x) of the payload (R150). -/
def Obligations.CodecIsPolynomialRemainder : Prop :=
  ∀ (m : Memory) (B M G R C : Polynomial (ZMod 2)),
    RepresentsBuffer m 544 B → RepresentsBuffer m 513 M → Represents 0xC1E52417 G →
    Represents (checkFn m) R → Represents (embedFn m).2 C →
    R = B.modByMonic G ∧ C = (M * Polynomial.X ^ 31).modByMonic G

/-! ## The syndrome table -/

/-- BUILD with no table and no configuration error installs the table of R160, sets `TV`, clears `CRC`
and answers 0; `SIG`, `SYND`, `POS`, `FIX` and everything else is untouched (R160, R163, R170). -/
def Obligations.BuildInstallsTheTable : Prop :=
  ∀ s : State, s.ce = false → s.tv = false →
    exec .build s = .next
      (answered 0 { s with tab := some (syntabWith Config.poly), tv := true, crc := 0 }) ∧
    ∀ p : Fin 544, (syntabWith Config.poly)[p] = checkFn (Memory.flip [] p)

/-- A second BUILD is refused with `E_STATE` and changes nothing but the error record (R171); with
`CE = 1` BUILD is refused with `E_CFG` (R273 check 4, R274). -/
def Obligations.SecondBuildRefused : Prop :=
  ∀ s : State, (s.ce = false → s.tv = true → exec .build s = .next (refused .eState 6 s)) ∧
    (s.ce = true → exec .build s = .next (refused .eCfg 4 s))

/-- For any generator, the builder sets `CE` and is refused with `E_CFG` exactly if two positions share
a syndrome or some syndrome is zero, and installs the table exactly if not (R169, R170, R274; the
generator as a parameter is R7's allowance for a model). -/
def Obligations.BuilderRejectsExactlyAmbiguousTables : Prop :=
  ∀ (g : Word) (s : State),
    (buildWith g s = .next (refused .eCfg 4 { s with ce := true }) ↔ ambiguous g) ∧
    (buildWith g s = .next (answered 0 { s with tab := some (syntabWith g), tv := true, crc := 0 }) ↔
      ¬ ambiguous g)

/-- The table by R164: entry 543 is 1, entry p-1 is `PassBit` of entry p with bit 0, the checksum
field's positions have one-hot syndromes; each entry is the syndrome of a flip in the zero buffer. -/
def Obligations.TableFollowsTheRecurrence : Prop :=
  checkFn (Memory.flip [] 543) = 1 ∧
  (∀ p, 1 ≤ p → p ≤ 543 →
    checkFn (Memory.flip [] (p - 1)) = passBit (checkFn (Memory.flip [] p)) false) ∧
  (∀ k, k ≤ 30 → checkFn (Memory.flip [] (543 - k)) = (1 : Word) <<< k) ∧
  checkFn (Memory.flip [] 512) = 0x41E52417 ∧ checkFn (Memory.flip [] 511) = 0x422F6C39 ∧
  checkFn (Memory.flip [] 0) = 0x2949AE09

/-- For any signature with zero residue and any single position, the residue after the flip is the
table's entry, and it is non-zero (R161). -/
def Obligations.SingleFlipGivesTheTableEntry : Prop :=
  ∀ (m : Memory) (p : Fin 544), m.wf = true → checkFn m = 0 →
    checkFn (m.flip p) = (syntabWith Config.poly)[p] ∧ checkFn (m.flip p) ≠ 0

/-- Superposition: flipping a set of distinct positions of a signature with zero residue gives the xor
of their table entries (R162). -/
def Obligations.SyndromesSuperpose : Prop :=
  ∀ (m : Memory) (ps : List (Fin 544)), m.wf = true → checkFn m = 0 → ps.Nodup →
    checkFn (ps.foldl (fun n p => n.flip p) m) =
      ps.foldl (fun x p => x ^^^ (syntabWith Config.poly)[p]) 0

/-- The 544 entries are pairwise distinct, non-zero, and have bit 31 clear (R166). -/
def Obligations.SyndromesAreDistinct : Prop :=
  (∀ p q : Fin 544, (syntabWith Config.poly)[p] = (syntabWith Config.poly)[q] → p = q) ∧
  (∀ p : Fin 544, (syntabWith Config.poly)[p] ≠ 0 ∧ (syntabWith Config.poly)[p].getLsbD 31 = false)

/-- The sorted view: strictly ascending as unsigned numbers, each rank a position with its own entry,
every position at some rank, and the ends the rule names (R165). -/
def Obligations.SortedViewIsSorted : Prop :=
  (∀ i j : Fin 544, i < j → (sortedView (syntabWith Config.poly))[i].syn.toNat <
    (sortedView (syntabWith Config.poly))[j].syn.toNat) ∧
  (∀ i : Fin 544, ∃ p : Fin 544, (sortedView (syntabWith Config.poly))[i].pos.toNat = p ∧
    (sortedView (syntabWith Config.poly))[i].syn = (syntabWith Config.poly)[p]) ∧
  (∀ p : Fin 544, ∃ i : Fin 544, (sortedView (syntabWith Config.poly))[i].pos.toNat = p) ∧
  (sortedView (syntabWith Config.poly))[0] = ⟨0x00000001, 543⟩ ∧
  (sortedView (syntabWith Config.poly))[1] = ⟨0x00000002, 542⟩ ∧
  (sortedView (syntabWith Config.poly))[2] = ⟨0x00000004, 541⟩ ∧
  (sortedView (syntabWith Config.poly))[543] = ⟨0x7FF8C5CD, 425⟩

/-- RDTAB, RDSORTS and RDSORTP with a table and a legal index answer the element and change nothing
(R172 to R174). -/
def Obligations.TableReadsAnswer : Prop :=
  ∀ (s : State) (idx : BitVec 10) (t : Vector Word 544) (h : idx.toNat < 544),
    s.ce = false → s.tv = true → s.tab = some t →
    exec (.rdtab idx) s = .next (answered (t[idx.toNat]'h) s) ∧
    exec (.rdsorts idx) s = .next (answered ((sortedView t)[idx.toNat]'h).syn s) ∧
    exec (.rdsortp idx) s = .next (answered (((sortedView t)[idx.toNat]'h).pos.setWidth 32) s)

/-! ## The locator and the corrector -/

/-- The locator against its own table: `FindBit(SYNTAB[p]) = p`, any word not in the table gives 0x3FF,
never a spurious position (R193); so do 0 and every word with bit 31 set (R191). -/
def Obligations.FindBitInvertsTheTable : Prop :=
  (∀ p : Fin 544, (findBit (syntabWith Config.poly) (syntabWith Config.poly)[p]).toNat = p) ∧
  (∀ x : Word, (∀ p : Fin 544, (syntabWith Config.poly)[p] ≠ x) →
    findBit (syntabWith Config.poly) x = 0x3FF) ∧
  findBit (syntabWith Config.poly) 0 = 0x3FF ∧
  (∀ x : Word, x.getLsbD 31 = true → findBit (syntabWith Config.poly) x = 0x3FF)

/-- FIND with the table answers the position the sorted view pairs with the query, or 0x3FF if no rank
holds it, and changes nothing (R190, R194). -/
def Obligations.FindAnswersThePosition : Prop :=
  ∀ (s : State) (x : Word), s.tableReady →
    ∃ p : BitVec 10, exec (.find x) s = .next (answered (p.setWidth 32) s) ∧
      (∀ i : Fin 544, (sortedView (syntabWith Config.poly))[i].syn = x →
        p = (sortedView (syntabWith Config.poly))[i].pos) ∧
      ((∀ i : Fin 544, (sortedView (syntabWith Config.poly))[i].syn ≠ x) → p = 0x3FF)

/-- CORRECT with the table, in its three classes: with `SYND = 0` it is GOOD; with `SYND` the entry of
position p it flips p, clears `SYND`, records p and is FIXED; with any other `SYND` it is STILL_BAD
and leaves `SIG` and `SYND` (R200, R201). -/
def Obligations.CorrectClassifies : Prop :=
  ∀ s : State, s.tableReady →
    (s.synd = 0 →
      exec .correct s = .next (answered 0x000003FF { s with fix := false, pos := 0x3FF })) ∧
    (∀ p : Fin 544, s.synd = (syntabWith Config.poly)[p] →
      exec .correct s = .next (answered (0x00010000 ||| BitVec.ofNat 32 p)
        { s with sig := s.sig.flip p, synd := 0, pos := BitVec.ofNat 10 p, fix := true })) ∧
    (s.synd ≠ 0 → (∀ p : Fin 544, s.synd ≠ (syntabWith Config.poly)[p]) →
      exec .correct s = .next (answered 0x000203FF { s with fix := false, pos := 0x3FF }))

/-- A single error is corrected: on a buffer with zero residue, FLIPBIT p, CHECK, CORRECT restores the
exact buffer, with `SYND = 0`, `POS = p`, `FIX = 1` and class FIXED, and a following CHECK answers 0
(R203). -/
def Obligations.SingleErrorIsCorrected : Prop :=
  ∀ (s : State) (idx : BitVec 10), s.tableReady → s.sig.wf = true → checkFn s.sig = 0 →
    idx.toNat < 544 →
    ∃ t1 t2 t3 t4, exec (.flipbit idx) s = .next t1 ∧ exec .check t1 = .next t2 ∧
      exec .correct t2 = .next t3 ∧ exec .check t3 = .next t4 ∧
      t3.sig = s.sig ∧ t3.synd = 0 ∧ t3.pos = idx ∧ t3.fix = true ∧
      t3.responses = t2.responses ++ [⟨.ok, 0x00010000 ||| idx.setWidth 32⟩] ∧
      t4.responses = t3.responses ++ [⟨.ok, 0⟩]

/-- Two errors are always detected and never "corrected": on a buffer with zero residue, flipping two
different positions, then CHECK and CORRECT, ends STILL_BAD with the buffer left as it was
(R176, 90_conflicts.md C5). -/
def Obligations.TwoErrorsAreStillBad : Prop :=
  ∀ (s : State) (i j : BitVec 10), s.tableReady → s.sig.wf = true → checkFn s.sig = 0 →
    i.toNat < 544 → j.toNat < 544 → i ≠ j →
    ∃ t1 t2 t3 t4, exec (.flipbit i) s = .next t1 ∧ exec (.flipbit j) t1 = .next t2 ∧
      exec .check t2 = .next t3 ∧ exec .correct t3 = .next t4 ∧
      t3.synd ≠ 0 ∧ t4.sig = t2.sig ∧ t4.synd = t3.synd ∧ t4.fix = false ∧
      t4.responses = t3.responses ++ [⟨.ok, 0x000203FF⟩]

/-- One attempt: a second CORRECT with no command between flips nothing, whatever the first one did
(R202). -/
def Obligations.SecondCorrectFlipsNothing : Prop :=
  ∀ s t u : State, exec .correct s = .next t → exec .correct t = .next u → u.sig = t.sig

/-- No read has a side effect: NOP, RDREG, RDSIG, RDTAB, RDSORTS, RDSORTP and FIND that answer `OK`
change no state, and repeated at once answer the same again (R56). -/
def Obligations.ReadsHaveNoSideEffect : Prop :=
  ∀ (i : Instr) (s t : State) (r : Response),
    (i = .nop ∨ (∃ g, i = .rdreg g) ∨ (∃ a, i = .rdsig a) ∨ (∃ p, i = .rdtab p) ∨
      (∃ p, i = .rdsorts p) ∨ (∃ p, i = .rdsortp p) ∨ (∃ v, i = .find v)) →
    exec i s = .next t → t.responses = s.responses ++ [r] → r.st = .ok →
    t = answered r.data s ∧ exec i t = .next (answered r.data t)
end

