-- ==== Sys2Proof/Laws/Decode.lean ====
section
/-! SUPPORT. The bits of an encoded command, and the fields the decoder takes from it. -/

namespace Sys2Proof

/-- The bits of a command word: the argument below bit 32, the opcode from bit 32 on (R70). -/
theorem encode_getLsbD (i : Instr) (k : Nat) :
    (encode i).getLsbD k = if k < 32 then (argument i).getLsbD k else (opcode i).getLsbD (k - 32) := by
  unfold encode
  exact BitVec.getLsbD_append

@[simp] theorem opField_encode (i : Instr) : opField (encode i) = opcode i := by
  apply BitVec.eq_of_getLsbD_eq
  intro k hk
  simp [opField, encode_getLsbD, hk]

@[simp] theorem argField_encode (i : Instr) : argField (encode i) = argument i := by
  apply BitVec.eq_of_getLsbD_eq
  intro k hk
  simp [argField, encode_getLsbD, hk]

/-- Decoding an encoded command looks at its opcode and its argument. -/
theorem decode_encode_fields (i : Instr) :
    decode (encode i) = decodeFields (opcode i) (argument i) := by
  simp [decode]

end Sys2Proof
end

