-- ==== Sys2Proof/Laws/Memory.lean ====
section
/-! SUPPORT. Laws of the byte memory: read after write, canonical form, extensionality. -/

namespace Sys2Proof.Machine

theorem read_below_of_wfFrom {lo a : Nat} :
    ∀ {m : Memory}, m.wfFrom lo = true → a < lo → m.read a = Config.sigResetByte
  | [], _, _ => rfl
  | (b, v) :: m, h, ha => by
    simp only [Memory.wfFrom, Bool.and_eq_true, decide_eq_true_eq] at h
    obtain ⟨⟨⟨hlo, -⟩, -⟩, hm⟩ := h
    have hne : a ≠ b := by omega
    simpa [Memory.read, hne] using read_below_of_wfFrom hm (by omega)

theorem wfFrom_mono {lo lo' : Nat} (hle : lo' ≤ lo) :
    ∀ {m : Memory}, m.wfFrom lo = true → m.wfFrom lo' = true
  | [], _ => rfl
  | (b, v) :: m, h => by
    simp only [Memory.wfFrom, Bool.and_eq_true, decide_eq_true_eq] at h ⊢
    obtain ⟨⟨⟨hlo, hb⟩, hv⟩, hm⟩ := h
    exact ⟨⟨⟨by omega, hb⟩, hv⟩, hm⟩

theorem wfFrom_cons {lo a : Nat} {v : Byte} {m : Memory} (hlo : lo ≤ a) (ha : a < 68)
    (hm : m.wfFrom (a + 1) = true) : (Memory.cons a v m).wfFrom lo = true := by
  by_cases hv : v = Config.sigResetByte
  · simpa [Memory.cons, hv] using wfFrom_mono (by omega) hm
  · simp [Memory.cons, hv, Memory.wfFrom, hlo, ha, hm]

theorem read_cons {a x : Nat} {v : Byte} {m : Memory} (hm : m.wfFrom (a + 1) = true) :
    (Memory.cons a v m).read x = if x = a then v else m.read x := by
  by_cases hv : v = Config.sigResetByte
  · by_cases hx : x = a
    · subst hx; simp [Memory.cons, hv, read_below_of_wfFrom hm (Nat.lt_succ_self _)]
    · simp [Memory.cons, hv, hx]
  · simp [Memory.cons, hv, Memory.read]

theorem wfFrom_write {lo a : Nat} {v : Byte} (hlo : lo ≤ a) (ha : a < 68) :
    ∀ {m : Memory}, m.wfFrom lo = true → (m.write a v).wfFrom lo = true
  | [], _ => wfFrom_cons hlo ha rfl
  | (b, u) :: m, h => by
    have h' := h
    simp only [Memory.wfFrom, Bool.and_eq_true, decide_eq_true_eq] at h
    obtain ⟨⟨⟨hlb, hb⟩, hu⟩, hm⟩ := h
    simp only [Memory.write]
    split
    · refine wfFrom_cons hlo ha ?_
      simp only [Memory.wfFrom, Bool.and_eq_true, decide_eq_true_eq]
      exact ⟨⟨⟨by omega, hb⟩, hu⟩, hm⟩
    · split
      · subst_vars; exact wfFrom_cons hlo ha hm
      · have hw := wfFrom_write (lo := b + 1) (v := v) (by omega) ha hm
        simp only [Memory.wfFrom, Bool.and_eq_true, decide_eq_true_eq]
        exact ⟨⟨⟨hlb, hb⟩, hu⟩, hw⟩

/-- Every write of a byte of `SIG` keeps the canonical form. -/
theorem wf_write {m : Memory} {a : Nat} {v : Byte} (hm : m.wf = true) (ha : a < 68) :
    (m.write a v).wf = true :=
  wfFrom_write (Nat.zero_le a) ha hm

theorem read_write_from {lo a x : Nat} {v : Byte} :
    ∀ {m : Memory}, m.wfFrom lo = true → (m.write a v).read x = if x = a then v else m.read x
  | [], _ => read_cons rfl
  | (b, u) :: m, h => by
    have h' := h
    simp only [Memory.wfFrom, Bool.and_eq_true, decide_eq_true_eq] at h
    obtain ⟨⟨⟨hlb, hb⟩, hu⟩, hm⟩ := h
    simp only [Memory.write]
    split
    · refine read_cons ?_
      simp only [Memory.wfFrom, Bool.and_eq_true, decide_eq_true_eq]
      exact ⟨⟨⟨by omega, hb⟩, hu⟩, hm⟩
    · split
      · subst_vars
        rw [read_cons hm]
        by_cases hx : x = b <;> simp [hx, Memory.read]
      · by_cases hx : x = b
        · have hne : b ≠ a := by omega
          simp [Memory.read, hx, hne]
        · simp [Memory.read, hx, read_write_from hm]

/-- Reading after a write gives the byte written at its address and the old byte elsewhere. -/
theorem read_write {m : Memory} (hm : m.wf = true) (a x : Nat) (v : Byte) :
    (m.write a v).read x = if x = a then v else m.read x :=
  read_write_from hm

/-- Two memories in canonical form that read the same at every address are the same data. -/
theorem eq_of_read_from {lo : Nat} :
    ∀ {m n : Memory}, m.wfFrom lo = true → n.wfFrom lo = true → (∀ a, m.read a = n.read a) → m = n
  | [], [], _, _, _ => rfl
  | [], (b, v) :: n, _, hn, h => by
    simp only [Memory.wfFrom, Bool.and_eq_true, decide_eq_true_eq] at hn
    have := h b
    simp [Memory.read] at this
    simp [← this] at hn
  | (b, v) :: m, [], hm, _, h => by
    simp only [Memory.wfFrom, Bool.and_eq_true, decide_eq_true_eq] at hm
    have := h b
    simp [Memory.read] at this
    simp [this] at hm
  | (b, v) :: m, (c, w) :: n, hm, hn, h => by
    simp only [Memory.wfFrom, Bool.and_eq_true, decide_eq_true_eq] at hm hn
    obtain ⟨⟨⟨hlb, hb⟩, hv⟩, hm⟩ := hm
    obtain ⟨⟨⟨hlc, hc⟩, hw⟩, hn⟩ := hn
    have hbc : b = c := by
      rcases Nat.lt_trichotomy b c with hlt | heq | hgt
      · have := h b
        have hne : b ≠ c := by omega
        simp [Memory.read, hne, read_below_of_wfFrom hn (show b < c + 1 by omega)] at this
        simp [this] at hv
      · exact heq
      · have := h c
        have hne : c ≠ b := by omega
        simp [Memory.read, hne, read_below_of_wfFrom hm (show c < b + 1 by omega)] at this
        simp [← this] at hw
    subst hbc
    have hvw : v = w := by simpa [Memory.read] using h b
    subst hvw
    have hmn : m = n := by
      refine eq_of_read_from hm hn fun a => ?_
      by_cases ha : a = b
      · subst ha
        rw [read_below_of_wfFrom hm (Nat.lt_succ_self _), read_below_of_wfFrom hn (Nat.lt_succ_self _)]
      · simpa [Memory.read, ha] using h a
    rw [hmn]

theorem eq_of_read {m n : Memory} (hm : m.wf = true) (hn : n.wf = true)
    (h : ∀ a, m.read a = n.read a) : m = n :=
  eq_of_read_from hm hn h

theorem byteidx_eq (p : Nat) : byteidx p = p / 8 := by simp [byteidx, Nat.shiftRight_eq_div_pow]

theorem byteidx_lt {p : Nat} (hp : p < 544) : byteidx p < 68 := by rw [byteidx_eq]; omega

/-- Flipping a position of `SIG` keeps the canonical form. -/
theorem wf_flip {m : Memory} {p : Nat} (hm : m.wf = true) (hp : p < 544) : (m.flip p).wf = true :=
  wf_write hm (byteidx_lt hp)

/-- What a flip reads as: one byte xored with the mask of the position, every other byte as before. -/
theorem read_flip {m : Memory} (hm : m.wf = true) (p x : Nat) :
    (m.flip p).read x = if x = byteidx p then m.read (byteidx p) ^^^ bytemask p else m.read x :=
  read_write hm _ _ _

@[simp] theorem read_nil (a : Nat) : Memory.read [] a = Config.sigResetByte := rfl

theorem wf_nil : Memory.wf [] = true := rfl

theorem reset_sig_wf : State.reset.sig.wf = true := rfl

end Sys2Proof.Machine
end

