-- ==== Sys2Proof/Laws/State.lean ====
section
/-! SUPPORT. What each update of the state does to each field, one lemma per field per update. -/

namespace Sys2Proof.Machine

@[simp] theorem setCrc_crc (s : State) (v : Word) : (s.setCrc v).crc = v := rfl
@[simp] theorem setCrc_synd (s : State) (v : Word) : (s.setCrc v).synd = s.synd := rfl
@[simp] theorem setCrc_pos (s : State) (v : Word) : (s.setCrc v).pos = s.pos := rfl
@[simp] theorem setCrc_tv (s : State) (v : Word) : (s.setCrc v).tv = s.tv := rfl
@[simp] theorem setCrc_ce (s : State) (v : Word) : (s.setCrc v).ce = s.ce := rfl
@[simp] theorem setCrc_err (s : State) (v : Word) : (s.setCrc v).err = s.err := rfl
@[simp] theorem setCrc_fix (s : State) (v : Word) : (s.setCrc v).fix = s.fix := rfl
@[simp] theorem setCrc_ecode (s : State) (v : Word) : (s.setCrc v).ecode = s.ecode := rfl
@[simp] theorem setCrc_sig (s : State) (v : Word) : (s.setCrc v).sig = s.sig := rfl
@[simp] theorem setCrc_tab (s : State) (v : Word) : (s.setCrc v).tab = s.tab := rfl
@[simp] theorem setCrc_inputs (s : State) (v : Word) : (s.setCrc v).inputs = s.inputs := rfl
@[simp] theorem setCrc_responses (s : State) (v : Word) : (s.setCrc v).responses = s.responses := rfl

@[simp] theorem setSig_crc (s : State) (m : Memory) : (s.setSig m).crc = s.crc := rfl
@[simp] theorem setSig_synd (s : State) (m : Memory) : (s.setSig m).synd = s.synd := rfl
@[simp] theorem setSig_pos (s : State) (m : Memory) : (s.setSig m).pos = s.pos := rfl
@[simp] theorem setSig_tv (s : State) (m : Memory) : (s.setSig m).tv = s.tv := rfl
@[simp] theorem setSig_ce (s : State) (m : Memory) : (s.setSig m).ce = s.ce := rfl
@[simp] theorem setSig_err (s : State) (m : Memory) : (s.setSig m).err = s.err := rfl
@[simp] theorem setSig_fix (s : State) (m : Memory) : (s.setSig m).fix = s.fix := rfl
@[simp] theorem setSig_ecode (s : State) (m : Memory) : (s.setSig m).ecode = s.ecode := rfl
@[simp] theorem setSig_sig (s : State) (m : Memory) : (s.setSig m).sig = m := rfl
@[simp] theorem setSig_tab (s : State) (m : Memory) : (s.setSig m).tab = s.tab := rfl
@[simp] theorem setSig_inputs (s : State) (m : Memory) : (s.setSig m).inputs = s.inputs := rfl
@[simp] theorem setSig_responses (s : State) (m : Memory) : (s.setSig m).responses = s.responses := rfl

@[simp] theorem setSynd_crc (s : State) (v : Word) : (s.setSynd v).crc = s.crc := rfl
@[simp] theorem setSynd_synd (s : State) (v : Word) : (s.setSynd v).synd = v := rfl
@[simp] theorem setSynd_pos (s : State) (v : Word) : (s.setSynd v).pos = s.pos := rfl
@[simp] theorem setSynd_tv (s : State) (v : Word) : (s.setSynd v).tv = s.tv := rfl
@[simp] theorem setSynd_ce (s : State) (v : Word) : (s.setSynd v).ce = s.ce := rfl
@[simp] theorem setSynd_err (s : State) (v : Word) : (s.setSynd v).err = s.err := rfl
@[simp] theorem setSynd_fix (s : State) (v : Word) : (s.setSynd v).fix = s.fix := rfl
@[simp] theorem setSynd_ecode (s : State) (v : Word) : (s.setSynd v).ecode = s.ecode := rfl
@[simp] theorem setSynd_sig (s : State) (v : Word) : (s.setSynd v).sig = s.sig := rfl
@[simp] theorem setSynd_tab (s : State) (v : Word) : (s.setSynd v).tab = s.tab := rfl
@[simp] theorem setSynd_inputs (s : State) (v : Word) : (s.setSynd v).inputs = s.inputs := rfl
@[simp] theorem setSynd_responses (s : State) (v : Word) : (s.setSynd v).responses = s.responses := rfl

@[simp] theorem setAttempt_crc (s : State) (p : BitVec 10) (f : Bool) : (s.setAttempt p f).crc = s.crc := rfl
@[simp] theorem setAttempt_synd (s : State) (p : BitVec 10) (f : Bool) : (s.setAttempt p f).synd = s.synd := rfl
@[simp] theorem setAttempt_pos (s : State) (p : BitVec 10) (f : Bool) : (s.setAttempt p f).pos = p := rfl
@[simp] theorem setAttempt_tv (s : State) (p : BitVec 10) (f : Bool) : (s.setAttempt p f).tv = s.tv := rfl
@[simp] theorem setAttempt_ce (s : State) (p : BitVec 10) (f : Bool) : (s.setAttempt p f).ce = s.ce := rfl
@[simp] theorem setAttempt_err (s : State) (p : BitVec 10) (f : Bool) : (s.setAttempt p f).err = s.err := rfl
@[simp] theorem setAttempt_fix (s : State) (p : BitVec 10) (f : Bool) : (s.setAttempt p f).fix = f := rfl
@[simp] theorem setAttempt_ecode (s : State) (p : BitVec 10) (f : Bool) : (s.setAttempt p f).ecode = s.ecode := rfl
@[simp] theorem setAttempt_sig (s : State) (p : BitVec 10) (f : Bool) : (s.setAttempt p f).sig = s.sig := rfl
@[simp] theorem setAttempt_tab (s : State) (p : BitVec 10) (f : Bool) : (s.setAttempt p f).tab = s.tab := rfl
@[simp] theorem setAttempt_inputs (s : State) (p : BitVec 10) (f : Bool) : (s.setAttempt p f).inputs = s.inputs := rfl
@[simp] theorem setAttempt_responses (s : State) (p : BitVec 10) (f : Bool) : (s.setAttempt p f).responses = s.responses := rfl

@[simp] theorem installTable_crc (s : State) (t : Vector Word 544) : (s.installTable t).crc = s.crc := rfl
@[simp] theorem installTable_synd (s : State) (t : Vector Word 544) : (s.installTable t).synd = s.synd := rfl
@[simp] theorem installTable_pos (s : State) (t : Vector Word 544) : (s.installTable t).pos = s.pos := rfl
@[simp] theorem installTable_tv (s : State) (t : Vector Word 544) : (s.installTable t).tv = true := rfl
@[simp] theorem installTable_ce (s : State) (t : Vector Word 544) : (s.installTable t).ce = s.ce := rfl
@[simp] theorem installTable_err (s : State) (t : Vector Word 544) : (s.installTable t).err = s.err := rfl
@[simp] theorem installTable_fix (s : State) (t : Vector Word 544) : (s.installTable t).fix = s.fix := rfl
@[simp] theorem installTable_ecode (s : State) (t : Vector Word 544) : (s.installTable t).ecode = s.ecode := rfl
@[simp] theorem installTable_sig (s : State) (t : Vector Word 544) : (s.installTable t).sig = s.sig := rfl
@[simp] theorem installTable_tab (s : State) (t : Vector Word 544) : (s.installTable t).tab = some t := rfl
@[simp] theorem installTable_inputs (s : State) (t : Vector Word 544) : (s.installTable t).inputs = s.inputs := rfl
@[simp] theorem installTable_responses (s : State) (t : Vector Word 544) : (s.installTable t).responses = s.responses := rfl

@[simp] theorem setConfigError_crc (s : State) : s.setConfigError.crc = s.crc := rfl
@[simp] theorem setConfigError_synd (s : State) : s.setConfigError.synd = s.synd := rfl
@[simp] theorem setConfigError_pos (s : State) : s.setConfigError.pos = s.pos := rfl
@[simp] theorem setConfigError_tv (s : State) : s.setConfigError.tv = s.tv := rfl
@[simp] theorem setConfigError_ce (s : State) : s.setConfigError.ce = true := rfl
@[simp] theorem setConfigError_err (s : State) : s.setConfigError.err = s.err := rfl
@[simp] theorem setConfigError_fix (s : State) : s.setConfigError.fix = s.fix := rfl
@[simp] theorem setConfigError_ecode (s : State) : s.setConfigError.ecode = s.ecode := rfl
@[simp] theorem setConfigError_sig (s : State) : s.setConfigError.sig = s.sig := rfl
@[simp] theorem setConfigError_tab (s : State) : s.setConfigError.tab = s.tab := rfl
@[simp] theorem setConfigError_inputs (s : State) : s.setConfigError.inputs = s.inputs := rfl
@[simp] theorem setConfigError_responses (s : State) : s.setConfigError.responses = s.responses := rfl

@[simp] theorem answer_crc (s : State) (r : Response) : (s.answer r).crc = s.crc := rfl
@[simp] theorem answer_synd (s : State) (r : Response) : (s.answer r).synd = s.synd := rfl
@[simp] theorem answer_pos (s : State) (r : Response) : (s.answer r).pos = s.pos := rfl
@[simp] theorem answer_tv (s : State) (r : Response) : (s.answer r).tv = s.tv := rfl
@[simp] theorem answer_ce (s : State) (r : Response) : (s.answer r).ce = s.ce := rfl
@[simp] theorem answer_err (s : State) (r : Response) : (s.answer r).err = s.err := rfl
@[simp] theorem answer_fix (s : State) (r : Response) : (s.answer r).fix = s.fix := rfl
@[simp] theorem answer_ecode (s : State) (r : Response) : (s.answer r).ecode = s.ecode := rfl
@[simp] theorem answer_sig (s : State) (r : Response) : (s.answer r).sig = s.sig := rfl
@[simp] theorem answer_tab (s : State) (r : Response) : (s.answer r).tab = s.tab := rfl
@[simp] theorem answer_inputs (s : State) (r : Response) : (s.answer r).inputs = s.inputs := rfl
@[simp] theorem answer_responses (s : State) (r : Response) : (s.answer r).responses = s.responses ++ [r] := rfl

@[simp] theorem recordError_crc (s : State) (e : StatusCode) : (s.recordError e).crc = s.crc := rfl
@[simp] theorem recordError_synd (s : State) (e : StatusCode) : (s.recordError e).synd = s.synd := rfl
@[simp] theorem recordError_pos (s : State) (e : StatusCode) : (s.recordError e).pos = s.pos := rfl
@[simp] theorem recordError_tv (s : State) (e : StatusCode) : (s.recordError e).tv = s.tv := rfl
@[simp] theorem recordError_ce (s : State) (e : StatusCode) : (s.recordError e).ce = s.ce := rfl
@[simp] theorem recordError_err (s : State) (e : StatusCode) : (s.recordError e).err = true := rfl
@[simp] theorem recordError_fix (s : State) (e : StatusCode) : (s.recordError e).fix = s.fix := rfl
@[simp] theorem recordError_ecode (s : State) (e : StatusCode) : (s.recordError e).ecode = if s.err then s.ecode else e.code := rfl
@[simp] theorem recordError_sig (s : State) (e : StatusCode) : (s.recordError e).sig = s.sig := rfl
@[simp] theorem recordError_tab (s : State) (e : StatusCode) : (s.recordError e).tab = s.tab := rfl
@[simp] theorem recordError_inputs (s : State) (e : StatusCode) : (s.recordError e).inputs = s.inputs := rfl
@[simp] theorem recordError_responses (s : State) (e : StatusCode) : (s.recordError e).responses = s.responses := rfl

@[simp] theorem resetBlock_crc (s : State) : s.resetBlock.crc = 0 := rfl
@[simp] theorem resetBlock_synd (s : State) : s.resetBlock.synd = 0 := rfl
@[simp] theorem resetBlock_pos (s : State) : s.resetBlock.pos = 0x3FF := rfl
@[simp] theorem resetBlock_tv (s : State) : s.resetBlock.tv = false := rfl
@[simp] theorem resetBlock_ce (s : State) : s.resetBlock.ce = false := rfl
@[simp] theorem resetBlock_err (s : State) : s.resetBlock.err = false := rfl
@[simp] theorem resetBlock_fix (s : State) : s.resetBlock.fix = false := rfl
@[simp] theorem resetBlock_ecode (s : State) : s.resetBlock.ecode = 0 := rfl
@[simp] theorem resetBlock_sig (s : State) : s.resetBlock.sig = [] := rfl
@[simp] theorem resetBlock_tab (s : State) : s.resetBlock.tab = none := rfl
@[simp] theorem resetBlock_inputs (s : State) : s.resetBlock.inputs = s.inputs := rfl
@[simp] theorem resetBlock_responses (s : State) : s.resetBlock.responses = s.responses := rfl

@[simp] theorem presentCommand_crc (s : State) (w : CommandWord) : (presentCommand s w).crc = s.crc := rfl
@[simp] theorem presentCommand_synd (s : State) (w : CommandWord) : (presentCommand s w).synd = s.synd := rfl
@[simp] theorem presentCommand_pos (s : State) (w : CommandWord) : (presentCommand s w).pos = s.pos := rfl
@[simp] theorem presentCommand_tv (s : State) (w : CommandWord) : (presentCommand s w).tv = s.tv := rfl
@[simp] theorem presentCommand_ce (s : State) (w : CommandWord) : (presentCommand s w).ce = s.ce := rfl
@[simp] theorem presentCommand_err (s : State) (w : CommandWord) : (presentCommand s w).err = s.err := rfl
@[simp] theorem presentCommand_fix (s : State) (w : CommandWord) : (presentCommand s w).fix = s.fix := rfl
@[simp] theorem presentCommand_ecode (s : State) (w : CommandWord) : (presentCommand s w).ecode = s.ecode := rfl
@[simp] theorem presentCommand_sig (s : State) (w : CommandWord) : (presentCommand s w).sig = s.sig := rfl
@[simp] theorem presentCommand_tab (s : State) (w : CommandWord) : (presentCommand s w).tab = s.tab := rfl
@[simp] theorem presentCommand_inputs (s : State) (w : CommandWord) : (presentCommand s w).inputs = .command w :: s.inputs := rfl
@[simp] theorem presentCommand_responses (s : State) (w : CommandWord) : (presentCommand s w).responses = s.responses := rfl

end Sys2Proof.Machine
end

