-- ==== Sys2Proof/Laws/Ops.lean ====
section
/-! SUPPORT. For each shared operation, once, everything it can do. -/

namespace Sys2Proof.Machine

variable {s t : State}

theorem respond_next {d : Word} (h : respond d s = .next t) : t = s.answer ⟨.ok, d⟩ := by
  simpa [respond, eq_comm] using h

theorem raise_next {e : StatusCode} (h : raise e s = .next t) :
    t = (s.recordError e).answer ⟨e, 0⟩ := by
  simpa [raise, eq_comm] using h

theorem withAddr_cases {addr : BitVec 7} {k : Fin 68 → Host.Outcome State Fault Refusal}
    (h : withAddr addr s k = .next t) :
    (∃ a : Fin 68, a.val = addr.toNat ∧ k a = .next t) ∨
      (68 ≤ addr.toNat ∧ t = (s.recordError .eAddr).answer ⟨.eAddr, 0⟩) := by
  unfold withAddr at h
  split at h
  · exact .inl ⟨_, rfl, h⟩
  · exact .inr ⟨by omega, raise_next h⟩

theorem withIndex_cases {idx : BitVec 10} {k : Fin 544 → Host.Outcome State Fault Refusal}
    (h : withIndex idx s k = .next t) :
    (∃ p : Fin 544, p.val = idx.toNat ∧ k p = .next t) ∨
      (544 ≤ idx.toNat ∧ t = (s.recordError .eAddr).answer ⟨.eAddr, 0⟩) := by
  unfold withIndex at h
  split at h
  · exact .inl ⟨_, rfl, h⟩
  · exact .inr ⟨by omega, raise_next h⟩

theorem withTable_cases {k : Vector Word 544 → Host.Outcome State Fault Refusal}
    (h : withTable s k = .next t) :
    (s.ce = true ∧ t = (s.recordError .eCfg).answer ⟨.eCfg, 0⟩) ∨
      (s.ce = false ∧ s.tv = false ∧ t = (s.recordError .eNotab).answer ⟨.eNotab, 0⟩) ∨
      (s.ce = false ∧ s.tv = true ∧ k s.table = .next t) := by
  unfold withTable at h
  split at h
  · exact .inl ⟨‹_›, raise_next h⟩
  · split at h
    · exact .inr (.inl ⟨by simp_all, by simp_all, raise_next h⟩)
    · exact .inr (.inr ⟨by simp_all, by simp_all, h⟩)

theorem withTable_ready {k : Vector Word 544 → Host.Outcome State Fault Refusal}
    (hce : s.ce = false) (htv : s.tv = true) : withTable s k = k s.table := by
  simp [withTable, hce, htv]

theorem withAddr_legal {addr : BitVec 7} {k : Fin 68 → Host.Outcome State Fault Refusal}
    (h : addr.toNat < 68) : withAddr addr s k = k ⟨addr.toNat, h⟩ := by
  simp [withAddr, h]

theorem withIndex_legal {idx : BitVec 10} {k : Fin 544 → Host.Outcome State Fault Refusal}
    (h : idx.toNat < 544) : withIndex idx s k = k ⟨idx.toNat, h⟩ := by
  simp [withIndex, h]

theorem withAddr_illegal {addr : BitVec 7} {k : Fin 68 → Host.Outcome State Fault Refusal}
    (h : ¬ addr.toNat < 68) : withAddr addr s k = raise .eAddr s := by
  simp [withAddr, h]

theorem withIndex_illegal {idx : BitVec 10} {k : Fin 544 → Host.Outcome State Fault Refusal}
    (h : ¬ idx.toNat < 544) : withIndex idx s k = raise .eAddr s := by
  simp [withIndex, h]

theorem table_of_some {tab : Vector Word 544} (h : s.tab = some tab) : s.table = tab := by
  simp [State.table, h]

theorem withoutTable_cases {k : Host.Outcome State Fault Refusal} (h : withoutTable s k = .next t) :
    (s.ce = true ∧ t = (s.recordError .eCfg).answer ⟨.eCfg, 0⟩) ∨
      (s.ce = false ∧ s.tv = true ∧ t = (s.recordError .eState).answer ⟨.eState, 0⟩) ∨
      (s.ce = false ∧ s.tv = false ∧ k = .next t) := by
  unfold withoutTable at h
  split at h
  · exact .inl ⟨‹_›, raise_next h⟩
  · split at h
    · exact .inr (.inl ⟨by simp_all, ‹_›, raise_next h⟩)
    · exact .inr (.inr ⟨by simp_all, by simp_all, h⟩)

theorem buildWith_cases {g : Word} (h : buildWith g s = .next t) :
    (tableSound (syntabWith g) = true ∧
        t = ((s.installTable (syntabWith g)).setCrc 0).answer ⟨.ok, 0⟩) ∨
      (tableSound (syntabWith g) = false ∧
        t = (s.setConfigError.recordError .eCfg).answer ⟨.eCfg, 0⟩) := by
  cases hs : tableSound (syntabWith g) with
  | true =>
    rw [buildWith, if_pos hs] at h
    exact .inl ⟨rfl, respond_next h⟩
  | false =>
    rw [buildWith, if_neg (by rw [hs]; exact Bool.false_ne_true)] at h
    exact .inr ⟨rfl, raise_next h⟩

theorem readReg_none {reg : BitVec 4} : readReg reg s = none ↔ 6 ≤ reg.toNat := by
  have hlt := reg.isLt
  have hall : ∀ r : BitVec 4, readReg r s = none ↔ r ∉ [0, 1, 2, 3, 4, 5] := by
    intro r
    unfold readReg
    split <;> simp_all
  rw [hall]
  revert reg
  decide

/-- What `findBit` answers: the position of an entry equal to the query, or `NOT_FOUND` when there is
none. -/
theorem findBit_cases (tab : Vector Word 544) (x : Word) :
    (∃ p : Fin 544, (findBit tab x).toNat = p ∧ tab[p] = x) ∨
      (findBit tab x = Config.notFound ∧ ∀ p : Fin 544, tab[p] ≠ x) := by
  unfold findBit
  split
  · rename_i p hp
    obtain ⟨hlt, heq, -⟩ := List.findIdx?_eq_some_iff_getElem.mp hp
    have hp544 : p < 544 := by simpa using hlt
    refine .inl ⟨⟨p, hp544⟩, ?_, by simpa using heq⟩
    simp only [BitVec.toNat_ofNat]
    omega
  · rename_i hnone
    refine .inr ⟨rfl, fun p hp => ?_⟩
    have := List.findIdx?_eq_none_iff.mp hnone tab[p] (by simp)
    simp [hp] at this

/-- Everything CORRECT does once admitted (R200). -/
theorem execCorrect_cases (h : execCorrect s = .next t) (hce : s.ce = false) (htv : s.tv = true) :
    (s.synd = 0 ∧ t = (s.setAttempt Config.notFound false).answer ⟨.ok, correctionData .good Config.notFound⟩) ∨
      (s.synd ≠ 0 ∧ ∃ p : Fin 544, (findBit s.table s.synd).toNat = p ∧ s.table[p] = s.synd ∧
        t = (((s.setSig (s.sig.flip p)).setSynd 0).setAttempt (findBit s.table s.synd) true).answer
          ⟨.ok, correctionData .fixed (findBit s.table s.synd)⟩) ∨
      (s.synd ≠ 0 ∧ findBit s.table s.synd = Config.notFound ∧ (∀ p : Fin 544, s.table[p] ≠ s.synd) ∧
        t = (s.setAttempt Config.notFound false).answer ⟨.ok, correctionData .stillBad Config.notFound⟩) := by
  unfold execCorrect at h
  rw [withTable_ready hce htv] at h
  split at h
  · exact .inl ⟨‹_›, respond_next h⟩
  · split at h
    · rename_i hs hlt
      refine .inr (.inl ⟨hs, ?_⟩)
      rcases findBit_cases s.table s.synd with ⟨p, hp, hx⟩ | ⟨hn, -⟩
      · refine ⟨p, hp, hx, ?_⟩
        have hx' : s.table[(findBit s.table s.synd).toNat] = s.synd := by
          simp only [hp]; exact hx
        have := respond_next h
        rw [hx', BitVec.xor_self, hp] at this
        exact this
      · rw [hn] at hlt
        exact absurd hlt (by decide)
    · rename_i hs hnlt
      rcases findBit_cases s.table s.synd with ⟨p, hp, -⟩ | ⟨hn, hall⟩
      · exact absurd (hp ▸ p.isLt) hnlt
      · exact .inr (.inr ⟨hs, hn, hall, respond_next h⟩)

end Sys2Proof.Machine
end

