-- ==== Sys2Proof/Laws/PerInstr.lean ====
section
/-! SUPPORT. Per instruction: its encoding matches its row of spec/opcode_table.json. -/

namespace Sys2Proof.Laws.TableRow

/-- The `mask` of the instruction's row in spec/opcode_table.json. -/
def mask : Instr → CommandWord
  | .nop => 0xFFFFFFFFFF
  | .srst => 0xFFFFFFFFFF
  | .rdreg _ => 0xFFFFFFFFF0
  | .clrcrc => 0xFFFFFFFFFF
  | .ldcrc _ => 0xFF00000000
  | .passbit _ => 0xFFFFFFFFFE
  | .passbyte _ => 0xFFFFFFFF00
  | .wrsig _ _ => 0xFFFFFF8000
  | .rdsig _ => 0xFFFFFFFF80
  | .flipbit _ => 0xFFFFFFFC00
  | .embed => 0xFFFFFFFFFF
  | .check => 0xFFFFFFFFFF
  | .build => 0xFFFFFFFFFF
  | .rdtab _ => 0xFFFFFFFC00
  | .rdsorts _ => 0xFFFFFFFC00
  | .rdsortp _ => 0xFFFFFFFC00
  | .find _ => 0xFF00000000
  | .correct => 0xFFFFFFFFFF

/-- The `match` of the instruction's row in spec/opcode_table.json. -/
def pattern : Instr → CommandWord
  | .nop => 0x0000000000
  | .srst => 0x0100000000
  | .rdreg _ => 0x0200000000
  | .clrcrc => 0x1000000000
  | .ldcrc _ => 0x1100000000
  | .passbit _ => 0x1200000000
  | .passbyte _ => 0x1300000000
  | .wrsig _ _ => 0x2000000000
  | .rdsig _ => 0x2100000000
  | .flipbit _ => 0x2200000000
  | .embed => 0x3000000000
  | .check => 0x3100000000
  | .build => 0x4000000000
  | .rdtab _ => 0x4100000000
  | .rdsorts _ => 0x4200000000
  | .rdsortp _ => 0x4300000000
  | .find _ => 0x5000000000
  | .correct => 0x5100000000

/-- The encoded word of the instruction agrees with its row on every bit the row fixes. -/
def Statement (i : Instr) : Prop := encode i &&& mask i = pattern i

theorem nop : Statement (.nop) := by unfold Statement; decide

theorem srst : Statement (.srst) := by unfold Statement; decide

theorem rdreg (reg : BitVec 4) : Statement (.rdreg reg) := by
  apply BitVec.eq_of_getLsbD_eq
  intro k hk
  rw [BitVec.getLsbD_and, encode_getLsbD]
  interval_cases k <;> simp [argument, opcode, mask, pattern]

theorem clrcrc : Statement (.clrcrc) := by unfold Statement; decide

theorem ldcrc (val : Word) : Statement (.ldcrc val) := by
  apply BitVec.eq_of_getLsbD_eq
  intro k hk
  rw [BitVec.getLsbD_and, encode_getLsbD]
  interval_cases k <;> simp [argument, opcode, mask, pattern]

theorem passbit (bit : Bool) : Statement (.passbit bit) := by unfold Statement; cases bit <;> decide

theorem passbyte (byte : Byte) : Statement (.passbyte byte) := by
  apply BitVec.eq_of_getLsbD_eq
  intro k hk
  rw [BitVec.getLsbD_and, encode_getLsbD]
  interval_cases k <;> simp [argument, opcode, mask, pattern]

theorem wrsig (addr : BitVec 7) (byte : Byte) : Statement (.wrsig addr byte) := by
  apply BitVec.eq_of_getLsbD_eq
  intro k hk
  rw [BitVec.getLsbD_and, encode_getLsbD]
  interval_cases k <;> simp [argument, opcode, mask, pattern]

theorem rdsig (addr : BitVec 7) : Statement (.rdsig addr) := by
  apply BitVec.eq_of_getLsbD_eq
  intro k hk
  rw [BitVec.getLsbD_and, encode_getLsbD]
  interval_cases k <;> simp [argument, opcode, mask, pattern]

theorem flipbit (idx : BitVec 10) : Statement (.flipbit idx) := by
  apply BitVec.eq_of_getLsbD_eq
  intro k hk
  rw [BitVec.getLsbD_and, encode_getLsbD]
  interval_cases k <;> simp [argument, opcode, mask, pattern]

theorem embed : Statement (.embed) := by unfold Statement; decide

theorem check : Statement (.check) := by unfold Statement; decide

theorem build : Statement (.build) := by unfold Statement; decide

theorem rdtab (idx : BitVec 10) : Statement (.rdtab idx) := by
  apply BitVec.eq_of_getLsbD_eq
  intro k hk
  rw [BitVec.getLsbD_and, encode_getLsbD]
  interval_cases k <;> simp [argument, opcode, mask, pattern]

theorem rdsorts (idx : BitVec 10) : Statement (.rdsorts idx) := by
  apply BitVec.eq_of_getLsbD_eq
  intro k hk
  rw [BitVec.getLsbD_and, encode_getLsbD]
  interval_cases k <;> simp [argument, opcode, mask, pattern]

theorem rdsortp (idx : BitVec 10) : Statement (.rdsortp idx) := by
  apply BitVec.eq_of_getLsbD_eq
  intro k hk
  rw [BitVec.getLsbD_and, encode_getLsbD]
  interval_cases k <;> simp [argument, opcode, mask, pattern]

theorem find (val : Word) : Statement (.find val) := by
  apply BitVec.eq_of_getLsbD_eq
  intro k hk
  rw [BitVec.getLsbD_and, encode_getLsbD]
  interval_cases k <;> simp [argument, opcode, mask, pattern]

theorem correct : Statement (.correct) := by unfold Statement; decide

end Sys2Proof.Laws.TableRow
end

