-- ==== Sys2Proof/Laws/Table.lean ====
section
/-! SUPPORT. The table of this block's generator passes the builder's check (R166), evaluated once in
the kernel, so that no later proof evaluates it again. -/

namespace Sys2Proof.Machine

theorem tableSound_poly : tableSound (syntabWith Config.poly) = true := by decide +kernel

/-- With this block's generator BUILD never finds a configuration error (R166, R169). -/
theorem buildWith_poly (s : State) :
    buildWith Config.poly s = respond 0 ((s.installTable (syntabWith Config.poly)).setCrc 0) := by
  simp [buildWith, tableSound_poly]

end Sys2Proof.Machine
end

