-- ==== Sys2Proof/Machine/Written.lean ====
section
/-! DEFINITION. The written form of commands (R80) and the pseudo-commands (R81). Text and fixed
expansions only: no command's meaning depends on them. -/

namespace Sys2Proof.Machine

/-- The mnemonic of a command, in capitals (R75, R80). -/
def mnemonic : Instr → String
  | .nop => "NOP"
  | .srst => "SRST"
  | .rdreg _ => "RDREG"
  | .clrcrc => "CLRCRC"
  | .ldcrc _ => "LDCRC"
  | .passbit _ => "PASSBIT"
  | .passbyte _ => "PASSBYTE"
  | .wrsig _ _ => "WRSIG"
  | .rdsig _ => "RDSIG"
  | .flipbit _ => "FLIPBIT"
  | .embed => "EMBED"
  | .check => "CHECK"
  | .build => "BUILD"
  | .rdtab _ => "RDTAB"
  | .rdsorts _ => "RDSORTS"
  | .rdsortp _ => "RDSORTP"
  | .find _ => "FIND"
  | .correct => "CORRECT"

/-- The operands of a command as numbers, in the written order (R80). -/
def operands : Instr → List Nat
  | .nop | .srst | .clrcrc | .embed | .check | .build | .correct => []
  | .rdreg reg => [reg.toNat]
  | .ldcrc val | .find val => [val.toNat]
  | .passbit bit => [bit.toNat]
  | .passbyte byte => [byte.toNat]
  | .wrsig addr byte => [addr.toNat, byte.toNat]
  | .rdsig addr => [addr.toNat]
  | .flipbit idx | .rdtab idx | .rdsorts idx | .rdsortp idx => [idx.toNat]

/-- The written form with decimal numbers (R80): the mnemonic, then the operands after a space,
separated by commas. -/
def written (i : Instr) : String :=
  match operands i with
  | [] => mnemonic i
  | ns => mnemonic i ++ " " ++ ", ".intercalate (ns.map toString)

/-- `RDCRC`, `RDSYND`, `RDPOS`, `RDSTATUS` (R81). -/
def pseudoRdcrc : List Instr := [.rdreg 0]
def pseudoRdsynd : List Instr := [.rdreg 1]
def pseudoRdpos : List Instr := [.rdreg 2]
def pseudoRdstatus : List Instr := [.rdreg 3]

/-- `LOADSIG b0 b1 ... b67` (R81). -/
def pseudoLoadsig (bytes : Vector Byte 68) : List Instr :=
  bytes.toList.zipIdx.map fun e => .wrsig (BitVec.ofNat 7 e.2) e.1

/-- `CLRSIG` (R81). -/
def pseudoClrsig : List Instr := (List.range 68).map fun a => .wrsig (BitVec.ofNat 7 a) 0

/-- `PASSBITS n, bit` (R81). -/
def pseudoPassbits (n : Nat) (bit : Bool) : List Instr := List.replicate n (.passbit bit)

/-- `FLUSH31` (R81, R141). -/
def pseudoFlush31 : List Instr := pseudoPassbits 31 false

/-- `PASSSIG lo, hi` (R81): the host carries each byte it reads, so the bytes it read are an argument. -/
def pseudoPasssig (lo hi : Nat) (hostRead : Nat → Byte) : List Instr :=
  (List.range' lo (hi + 1 - lo)).flatMap fun a =>
    [.rdsig (BitVec.ofNat 7 a), .passbyte (hostRead a)]

end Sys2Proof.Machine
end

