-- ==== Sys2Proof/Tests/Slice0.lean ====
section
/-! SUPPORT. The model's own tests: ill-formed operands, words of each command written out from
30_encoding.md, one step per command with the values of the spec's examples, and for each statement
with hypotheses a state and operands that meet them. -/

open Sys2Proof Sys2Proof.Machine Sys2Proof.Claims

namespace Sys2Proof.Tests

/-! ## Helpers -/

/-- The state after one step that takes the command word `w`. -/
def after (w : Nat) (s : State) : Option State :=
  match step (s.withFetchWord 40 w) with
  | .next t => some t
  | .fault _ | .refused _ => none

/-- What `f` sees in the state after the command word `w`. -/
def see {α : Type} (w : Nat) (s : State) (f : State → α) : Option α := (after w s).map f

/-- The response to the command word `w`. -/
def answer (w : Nat) (s : State) : Option Response := (after w s).bind (·.responses.getLast?)

/-- The block with its table, as BUILD leaves it (R170). -/
def built : State := { State.reset with tab := some (syntabWith Config.poly), tv := true }

/-- The generator polynomial laid over bytes 64 to 67: a buffer with zero residue (R148). -/
def generatorBuffer : Memory := [(64, 0xC1), (65, 0xE5), (66, 0x24), (67, 0x17)]

/-- The block with its table and a signature with zero residue. -/
def loaded : State := { built with sig := generatorBuffer }

/-- A state with a recorded refusal, a stale syndrome, an LDCRC value with bit 31, and no table. -/
def untidy : State :=
  { State.reset with crc := 0x80000000, synd := 0x41E52417, pos := 543, fix := true, err := true,
                     ecode := 3, sig := [(0, 0x80), (67, 0x01)] }

/-! ## Well-formedness: one refused operand per check (R55) -/

theorem test_wf_rdreg : (Instr.rdreg 6).wf = false ∧ (Instr.rdreg 5).wf = true := by decide
theorem test_wf_wrsig : (Instr.wrsig 68 0).wf = false ∧ (Instr.wrsig 67 0).wf = true := by decide
theorem test_wf_rdsig : (Instr.rdsig 68).wf = false ∧ (Instr.rdsig 67).wf = true := by decide
theorem test_wf_flipbit : (Instr.flipbit 544).wf = false ∧ (Instr.flipbit 543).wf = true := by decide
theorem test_wf_rdtab : (Instr.rdtab 544).wf = false ∧ (Instr.rdtab 543).wf = true := by decide
theorem test_wf_rdsorts : (Instr.rdsorts 544).wf = false ∧ (Instr.rdsorts 543).wf = true := by decide
theorem test_wf_rdsortp : (Instr.rdsortp 544).wf = false ∧ (Instr.rdsortp 543).wf = true := by decide

/-! ## Decoding: words written out bit by bit from R73 and R75, opcode first -/

theorem test_decode_nop : decode (0b00000000#8 ++ 0#32) = .ok .nop := by decide
theorem test_decode_srst : decode (0b00000001#8 ++ 0#32) = .ok .srst := by decide
theorem test_decode_rdreg : decode (0b00000010#8 ++ 0#28 ++ 0b0101#4) = .ok (.rdreg 5) := by decide
theorem test_decode_clrcrc : decode (0b00010000#8 ++ 0#32) = .ok .clrcrc := by decide
theorem test_decode_ldcrc :
    decode (0b00010001#8 ++ 0b10000000000000000000000000000001#32) = .ok (.ldcrc 0x80000001) := by decide
theorem test_decode_passbit : decode (0b00010010#8 ++ 0#31 ++ 0b1#1) = .ok (.passbit true) := by decide
theorem test_decode_passbyte :
    decode (0b00010011#8 ++ 0#24 ++ 0b10100101#8) = .ok (.passbyte 0xA5) := by decide
theorem test_decode_wrsig :
    decode (0b00100000#8 ++ 0#17 ++ 0b1000000#7 ++ 0b10000001#8) = .ok (.wrsig 64 0x81) := by decide
theorem test_decode_rdsig : decode (0b00100001#8 ++ 0#25 ++ 0b1000011#7) = .ok (.rdsig 67) := by decide
theorem test_decode_flipbit :
    decode (0b00100010#8 ++ 0#22 ++ 0b0001100100#10) = .ok (.flipbit 100) := by decide
theorem test_decode_embed : decode (0b00110000#8 ++ 0#32) = .ok .embed := by decide
theorem test_decode_check : decode (0b00110001#8 ++ 0#32) = .ok .check := by decide
theorem test_decode_build : decode (0b01000000#8 ++ 0#32) = .ok .build := by decide
theorem test_decode_rdtab :
    decode (0b01000001#8 ++ 0#22 ++ 0b1000000000#10) = .ok (.rdtab 512) := by decide
theorem test_decode_rdsorts :
    decode (0b01000010#8 ++ 0#22 ++ 0b1000011111#10) = .ok (.rdsorts 543) := by decide
theorem test_decode_rdsortp :
    decode (0b01000011#8 ++ 0#22 ++ 0b1000011111#10) = .ok (.rdsortp 543) := by decide
theorem test_decode_find :
    decode (0b01010000#8 ++ 0b01001000001110111111100110000001#32) = .ok (.find 0x483BF981) := by decide
theorem test_decode_correct : decode (0b01010001#8 ++ 0#32) = .ok .correct := by decide

/-- R77: the first reserved opcode of each gap of R75. -/
theorem test_decode_reserved_opcodes :
    ∀ op ∈ ([0x03, 0x14, 0x23, 0x32, 0x44, 0x52, 0xFF] : List (BitVec 8)),
      decode (op ++ 0#32) = .error .undefinedOpcode := by decide

/-- R78: the lowest reserved bit of each format that has one. -/
theorem test_decode_reserved_bits :
    decode 0x0000000001 = .error .reservedBits ∧ decode 0x0200000010 = .error .reservedBits ∧
    decode 0x1200000002 = .error .reservedBits ∧ decode 0x1300000100 = .error .reservedBits ∧
    decode 0x2000008000 = .error .reservedBits ∧ decode 0x2100000080 = .error .reservedBits ∧
    decode 0x2200000400 = .error .reservedBits := by decide

/-- R80's example: `WRSIG 64, 0x80` is `0x20_00004080`, in R80's written form with decimal numbers. -/
theorem test_encode_wrsig :
    encode (.wrsig 64 0x80) = 0x2000004080 := by decide
theorem test_written : written (.wrsig 64 0x80) = "WRSIG 64, 128" := by decide +kernel

theorem test_decode_table_word :
    decodeTableWord 40 0x2200000064 = some (.flipbit 100) ∧ decodeTableWord 40 0x0300000000 = none := by
  decide

/-- R81: `FLUSH31` is 31 times PASSBIT 0, `CLRSIG` ends with `WRSIG 67, 0`. -/
theorem test_pseudo_commands :
    pseudoFlush31 = List.replicate 31 (.passbit false) ∧ pseudoClrsig.getLast? = some (.wrsig 67 0) ∧
      pseudoPasssig 3 4 (fun _ => 0x4F) =
        [.rdsig 3, .passbyte 0x4F, .rdsig 4, .passbyte 0x4F] := by decide

/-! ## One step per command, with the spec's example values -/

/-- R220: the all-zero word is NOP. -/
theorem test_nop : see 0 untidy (fun t => { t with responses := [] }) = some untidy ∧
    answer 0 untidy = some ⟨.ok, 0⟩ := by decide

/-- R221. -/
theorem test_srst : see 0x0100000000 untidy (fun t => { t with responses := [] }) = some State.reset ∧
    answer 0x0100000000 untidy = some ⟨.ok, 0⟩ := by decide

/-- R222, R25: `ERR`, `FIX` and `ECODE = 3` read 0x00000314 with `SYND` non-zero. -/
theorem test_rdreg : answer 0x0200000003 State.reset = some ⟨.ok, 0x00000008⟩ ∧
    answer 0x0200000002 State.reset = some ⟨.ok, 0x000003FF⟩ ∧
    answer 0x0200000004 State.reset = some ⟨.ok, 0xC1E52417⟩ ∧
    answer 0x0200000003 untidy = some ⟨.ok, 0x00000314⟩ := by decide

/-- R222: RDREG 6 is refused, and the first code is kept (R272, R277). -/
theorem test_rdreg_refused : answer 0x0200000006 State.reset = some ⟨.eAddr, 0⟩ ∧
    see 0x0200000006 State.reset State.status = some 0x0000030C ∧
    see 0x0300000000 untidy State.ecode = some 3 := by decide

/-- R105. -/
theorem test_clrcrc : see 0x1000000000 { State.reset with crc := 0x12345678 } State.crc = some 0 ∧
    answer 0x1000000000 untidy = some ⟨.ok, 0⟩ := by decide

/-- R106: bit 31 is accepted and stored. -/
theorem test_ldcrc : see 0x1180000000 State.reset State.crc = some 0x80000000 ∧
    answer 0x1140000000 State.reset = some ⟨.ok, 0x40000000⟩ := by decide

/-- R107. -/
theorem test_passbit :
    answer 0x1200000001 { State.reset with crc := 0x40000000 } = some ⟨.ok, 0x41E52416⟩ := by decide

/-- R100, R107: `CRC[31]` before the command is lost. -/
theorem test_passbit_top_lost :
    see 0x1200000001 untidy State.crc = some 0x00000001 := by decide

/-- R108. -/
theorem test_passbyte :
    answer 0x13000000A5 { State.reset with crc := 0x40000000 } = some ⟨.ok, 0x225A35BF⟩ := by decide

/-- R123: the byte goes to its address; 68 is refused. -/
theorem test_wrsig : see 0x2000004080 State.reset State.sig = some [(64, 0x80)] ∧
    answer 0x2000004400 State.reset = some ⟨.eAddr, 0⟩ := by decide

/-- Writing the byte an unlisted address reads as removes the cell. -/
theorem test_wrsig_canonical : see 0x2000000000 untidy State.sig = some [(67, 0x01)] := by decide

/-- R124. -/
theorem test_rdsig : answer 0x2100000043 untidy = some ⟨.ok, 0x00000001⟩ ∧
    answer 0x2100000042 untidy = some ⟨.ok, 0⟩ ∧
    answer 0x2100000044 untidy = some ⟨.eAddr, 0⟩ := by decide

/-- R125. -/
theorem test_flipbit : answer 0x2200000064 State.reset = some ⟨.ok, 0x00000008⟩ ∧
    see 0x2200000064 State.reset State.sig = some [(12, 0x08)] := by decide

/-- R125: position 543 is `0x01` of byte 67; 544 is refused. -/
theorem test_flipbit_edges : see 0x220000021F untidy State.sig = some [(0, 0x80)] ∧
    answer 0x2200000220 State.reset = some ⟨.eAddr, 0⟩ := by decide

/-- R148: a payload with only position 512 set becomes the generator; the old field is ignored. -/
theorem test_embed :
    see 0x3000000000 { State.reset with sig := [(64, 0xFF), (67, 0x55)] } (fun t => (t.crc, t.sig)) =
      some (0x41E52417, generatorBuffer) := by decide +kernel

/-- R151: `CheckFn` of the buffer with only byte 0 = 0x80, and of one with byte 67 = 0x01 as well. -/
theorem test_check :
    answer 0x3100000000 { State.reset with sig := [(0, 0x80)] } = some ⟨.ok, 0x2949AE09⟩ ∧
    see 0x3100000000 untidy (fun t => (t.crc, t.synd, t.pos, t.fix)) =
      some (0x2949AE08, 0x2949AE08, 0x3FF, false) := by decide +kernel

/-- R170: after reset BUILD answers 0 and sets `TV`; the table is then readable (R172). -/
theorem test_build : answer 0x4000000000 State.reset = some ⟨.ok, 0⟩ ∧
    see 0x4000000000 State.reset State.status = some 0x00000009 ∧
    (after 0x4000000000 State.reset).bind (answer 0x4100000000) = some ⟨.ok, 0x2949AE09⟩ := by
  decide +kernel

/-- R171 and the status word after it. -/
theorem test_build_twice : answer 0x4000000000 built = some ⟨.eState, 0⟩ ∧
    see 0x4000000000 built State.status = some 0x0000060D := by decide +kernel

/-- TV412: with the generator x^31 the table is ambiguous and BUILD reports it. -/
theorem test_build_ambiguous :
    (match buildWith 0x80000000 State.reset with
      | .next t => some (t.status, t.tv, t.crc, t.responses)
      | _ => none) = some (0x0000040E, false, 0, [⟨.eCfg, 0⟩]) := by decide +kernel

/-- R172, and its refusal without a table (R273). -/
theorem test_rdtab : answer 0x4100000000 built = some ⟨.ok, 0x2949AE09⟩ ∧
    answer 0x4100000200 built = some ⟨.ok, 0x41E52417⟩ := by decide +kernel
theorem test_rdtab_refused : answer 0x4100000220 State.reset = some ⟨.eAddr, 0⟩ ∧
    answer 0x410000021F State.reset = some ⟨.eNotab, 0⟩ ∧
    answer 0x410000021F { State.reset with ce := true } = some ⟨.eCfg, 0⟩ := by decide

/-- R173. -/
theorem test_rdsorts : answer 0x420000021F built = some ⟨.ok, 0x7FF8C5CD⟩ := by decide +kernel

/-- R174. -/
theorem test_rdsortp : answer 0x430000021F built = some ⟨.ok, 0x000001A9⟩ := by decide +kernel

/-- R194. -/
theorem test_find : answer 0x50483BF981 built = some ⟨.ok, 0x00000064⟩ ∧
    answer 0x5000000000 built = some ⟨.ok, 0x000003FF⟩ ∧
    answer 0x5080000001 built = some ⟨.ok, 0x000003FF⟩ := by decide +kernel
theorem test_find_refused : answer 0x5000000001 State.reset = some ⟨.eNotab, 0⟩ := by decide

/-- R200's example. -/
theorem test_correct :
    see 0x5100000000 { loaded with sig := (12, 0x08) :: generatorBuffer, synd := 0x483BF981 }
      (fun t => (t.sig, t.synd, t.pos, t.status, t.responses)) =
      some (generatorBuffer, 0, 0x064, 0x00000019, [⟨.ok, 0x00010064⟩]) := by decide +kernel

/-- R200: nothing to correct, and a syndrome that no single flip explains (R205 row 13). -/
theorem test_correct_none : answer 0x5100000000 built = some ⟨.ok, 0x000003FF⟩ ∧
    answer 0x5100000000 { built with synd := 0x72F6237C } = some ⟨.ok, 0x000203FF⟩ := by decide +kernel

/-- R300: hard reset between commands, with no response. -/
theorem test_hard_reset :
    (match step { untidy with inputs := [.hardReset] } with
      | .next t => some t | _ => none) = some State.reset := by decide

/-- The interface runs a program that is presented from outside: two steps of `core` from reset. -/
theorem test_core_run :
    (match Host.Core.run core 2
        ({ State.reset with inputs := [.command 0x13000000A5, .command 0x0200000000] } : State) with
      | .next t => t.responses | _ => []) = [⟨.ok, 0x000000A5⟩, ⟨.ok, 0x000000A5⟩] := by decide

/-! ## Witnesses: for each statement with hypotheses, values that meet them -/

/-- `untidy` with one input at the port. -/
def facing (i : PortInput) : State := { untidy with inputs := [i] }

theorem witness_DecodedWordIsItsEncoding : decode 0x2000007FFF = .ok (.wrsig 127 0xFF) := by decide

theorem witness_StepRunsTheDecodedCommand :
    (facing (.command 0x2200000220)).inputs = .command 0x2200000220 :: [] ∧
      decode 0x2200000220 = .ok (.flipbit 544) := by decide

theorem witness_UndefinedOpcodeRefused :
    (facing (.command 0x0300000000)).inputs = .command 0x0300000000 :: [] ∧
      opByte 0x0300000000 ∉ definedOpcodes ∧ opByte 0xFF12345678 ∉ definedOpcodes ∧
      decode 0 = .ok .nop := by decide

theorem witness_ReservedBitRefused :
    (facing (.command 0x2000008000)).inputs = .command 0x2000008000 :: [] ∧
      ((0xFFFFFF8000, 0x2000000000) : CommandWord × CommandWord) ∈ tableRows ∧
      opByte 0x2000008000 = opByte 0x2000000000 ∧
      (0x2000008000 : CommandWord) &&& 0xFFFFFF8000 ≠ 0x2000000000 := by decide

theorem witness_HardResetRestoresTheResetValues : (facing .hardReset).inputs = .hardReset :: [] := rfl
theorem witness_IdleBlockStays : untidy.inputs = [] := rfl
theorem witness_BrokenHandshakeFaults :
    (facing .handshakeViolation).inputs = .handshakeViolation :: [] := rfl
theorem witness_EveryStepAnswers :
    ∀ rest, (facing (.command 0x3000000000)).inputs ≠ .handshakeViolation :: rest := by
  intro rest h; cases h

theorem witness_OneResponsePerCommand :
    (facing (.command 0xFFFFFFFFFF)).inputs = .command 0xFFFFFFFFFF :: [] := rfl

theorem witness_StepKeepsTheInvariant :
    (facing (.command 0x220000021F)).Inv ∧ ∃ t, step (facing (.command 0x220000021F)) = .next t := by
  exact ⟨⟨by decide, by decide, by decide, by decide, by decide, by decide, by decide, nofun, by decide⟩,
    _, rfl⟩

/-- The three ways bit 31 of `CRC` can be 1 after a command. -/
theorem witness_CrcTopBitOnlyFromLdcrc :
    (∃ t, exec .nop untidy = .next t ∧ t.crc.getLsbD 31 = true) ∧
    (∃ t, exec .build { untidy with ce := true } = .next t ∧ t.crc.getLsbD 31 = true) ∧
    (∃ t, exec (.ldcrc 0x80000000) State.reset = .next t ∧ t.crc.getLsbD 31 = true) :=
  ⟨⟨_, rfl, rfl⟩, ⟨_, rfl, rfl⟩, ⟨_, rfl, rfl⟩⟩

theorem witness_BuiltTableIsImmutable :
    built.tv = true ∧ Instr.build ≠ .srst ∧ ∃ t, exec .build built = .next t :=
  ⟨rfl, by decide, _, rfl⟩

theorem witness_ErrorRecordIsSticky :
    ∃ t, exec (.rdsig 68) { untidy with ce := true } = .next t ∧ untidy.err = true := ⟨_, rfl, rfl⟩

/-- The hypotheses, and that the four storing commands reach their clauses at the ends of `SIG`. -/
theorem witness_OnlyTheNamedCommandsWrite :
    untidy.sig.wf = true ∧
    (∃ t, exec (.wrsig 67 0xFF) untidy = .next t ∧ t.sig.read 67 ≠ untidy.sig.read 67) ∧
    (∃ t, exec (.flipbit 0) untidy = .next t ∧ t.sig.read 0 ≠ untidy.sig.read 0) ∧
    (∃ t, exec .embed untidy = .next t ∧ t.sig.read 64 ≠ untidy.sig.read 64) ∧
    (∃ t, exec .srst untidy = .next t ∧ t.pos ≠ untidy.pos ∧ t.crc ≠ untidy.crc ∧ t.synd ≠ untidy.synd) :=
  ⟨by decide, ⟨_, rfl, by decide⟩, ⟨_, rfl, by decide⟩, ⟨_, rfl, by decide +kernel⟩,
    ⟨_, rfl, by decide, by decide, by decide⟩⟩

theorem witness_RefusalChangesOnlyTheErrorRecord :
    ∃ t, exec (.flipbit 544) State.reset = .next t ∧
      t.responses = State.reset.responses ++ [⟨.eAddr, 0⟩] ∧ StatusCode.eAddr ≠ .ok :=
  ⟨_, rfl, rfl, by decide⟩

/-- Each clause, at the ends of the operand ranges. -/
theorem witness_AdmissionChecksInOrder :
    (Instr.rdreg 6).wf = false ∧
    ((Instr.rdtab 543).wf = true ∧ ({ State.reset with ce := true } : State).ce = true ∧
      readsTable (.rdtab 543)) ∧
    ((Instr.find 0).wf = true ∧ State.reset.ce = false ∧ State.reset.tv = false ∧ readsTable (.find 0)) ∧
    (Instr.build.wf = true ∧ built.ce = false ∧ built.tv = true ∧ readsTable .correct) ∧
    (Instr.wrsig 67 0).wf = true ∧ ¬ readsTable (.wrsig 67 0) ∧ Instr.wrsig 67 0 ≠ .build := by
  simp [readsTable, built, State.reset, Instr.wf]

theorem witness_RdregReadsTheNamedRegister : 6 ≤ (6 : BitVec 4).toNat ∧ 6 ≤ (15 : BitVec 4).toNat := by
  decide

theorem witness_PassBitIsLinear : [true, false, true].length = [false, true, true].length := rfl

theorem witness_PassBitIsDivisionByTheGenerator :
    (0x40000000 : Word).getLsbD 31 = false ∧ ∃ S G R : Polynomial (ZMod 2),
      Represents 0x40000000 S ∧ Represents 0xC1E52417 G ∧ Represents (passBit 0x40000000 true) R :=
  ⟨by decide, _, _, _, rfl, rfl, rfl⟩

theorem witness_WrsigStoresOneByte :
    untidy.sig.wf = true ∧ (0 : BitVec 7).toNat < 68 ∧ (67 : BitVec 7).toNat < 68 := by decide

theorem witness_RdsigReadsOneByte : (67 : BitVec 7).toNat < 68 := by decide

theorem witness_FlipbitInvertsOneBit :
    untidy.sig.wf = true ∧ (0 : BitVec 10).toNat < 544 ∧ (543 : BitVec 10).toNat < 544 := by decide

theorem witness_FlipIsAnInvolution : generatorBuffer.wf = true ∧ 512 < 544 ∧ 543 < 544 := by decide

theorem witness_OutOfRangeOperandRefused :
    (Instr.rdreg 15).wf = false ∧ (Instr.wrsig 68 0).wf = false ∧ (Instr.rdsig 127).wf = false ∧
      (Instr.flipbit 544).wf = false ∧ (Instr.rdtab 1023).wf = false ∧
      (Instr.rdsorts 544).wf = false ∧ (Instr.rdsortp 544).wf = false := by decide

theorem witness_EmbedWritesTheChecksum : untidy.sig.wf = true := by decide

theorem witness_EmbedThenCheckIsZero : Memory.wf [(0, 0x80), (65, 0xAA)] = true := by decide

/-- Two buffers with the payload of position 512 alone and different checksum fields. -/
theorem witness_EmbedIgnoresTheOldChecksum :
    Memory.wf [(64, 0xFF), (67, 0x55)] = true ∧ Memory.wf [(64, 0x80)] = true ∧
    (∀ a, a < 64 → Memory.read [(64, 0xFF), (67, 0x55)] a = Memory.read [(64, 0x80)] a) ∧
    (Memory.read [(64, 0xFF), (67, 0x55)] 64).getLsbD 7 = (Memory.read [(64, 0x80)] 64).getLsbD 7 := by
  decide

theorem witness_CodecIsPolynomialRemainder : ∃ B M G R C : Polynomial (ZMod 2),
    RepresentsBuffer generatorBuffer 544 B ∧ RepresentsBuffer generatorBuffer 513 M ∧
      Represents 0xC1E52417 G ∧ Represents (checkFn generatorBuffer) R ∧
      Represents (embedFn generatorBuffer).2 C :=
  ⟨_, _, _, _, _, rfl, rfl, rfl, rfl, rfl⟩

theorem witness_BuildInstallsTheTable : untidy.ce = false ∧ untidy.tv = false := by decide

theorem witness_SecondBuildRefused :
    (built.ce = false ∧ built.tv = true) ∧ ({ untidy with ce := true } : State).ce = true :=
  ⟨⟨rfl, rfl⟩, rfl⟩

/-- The generator x^31 is ambiguous; this block's is built (`test_build`). -/
theorem witness_BuilderRejectsExactlyAmbiguousTables : ambiguous 0x80000000 :=
  .inr ⟨0, by decide +kernel⟩

/-- A valid signature that is not all zero, with the ends of the positions. -/
theorem witness_SingleFlipGivesTheTableEntry :
    generatorBuffer.wf = true ∧ checkFn generatorBuffer = 0 := by decide +kernel

theorem witness_SyndromesSuperpose :
    generatorBuffer.wf = true ∧ checkFn generatorBuffer = 0 ∧
      ([0, 512, 543] : List (Fin 544)).Nodup := by decide +kernel

theorem witness_TableReadsAnswer :
    (543 : BitVec 10).toNat < 544 ∧ built.ce = false ∧ built.tv = true ∧
      built.tab = some (syntabWith Config.poly) := ⟨by decide, rfl, rfl, rfl⟩

theorem built_tableReady : built.tableReady := ⟨rfl, rfl, rfl⟩

theorem loaded_tableReady : loaded.tableReady := ⟨rfl, rfl, rfl⟩

/-- A word that no entry equals: the syndrome of R205's double error. -/
theorem double_error_absent (p : Fin 544) : (syntabWith Config.poly)[p] ≠ 0x72F6237C := by
  have h : (syntabWith Config.poly).toList.all (· != 0x72F6237C) = true := by decide +kernel
  simpa using List.all_eq_true.mp h (syntabWith Config.poly)[p] (by simp)

theorem witness_FindBitInvertsTheTable :
    (∀ p : Fin 544, (syntabWith Config.poly)[p] ≠ 0x72F6237C) ∧ (0x80000001 : Word).getLsbD 31 = true :=
  ⟨double_error_absent, by decide⟩

theorem witness_FindAnswersThePosition :
    built.tableReady ∧ (sortedView (syntabWith Config.poly))[543].syn = 0x7FF8C5CD :=
  ⟨built_tableReady, by decide +kernel⟩

/-- The three classes. -/
theorem witness_CorrectClassifies :
    built.tableReady ∧ built.synd = 0 ∧
    ({ built with synd := 1 } : State).synd = (syntabWith Config.poly)[(543 : Fin 544)] ∧
    ((0x72F6237C : Word) ≠ 0 ∧ ∀ p : Fin 544, 0x72F6237C ≠ (syntabWith Config.poly)[p]) :=
  ⟨built_tableReady, rfl, by decide +kernel, by decide, fun p h => double_error_absent p h.symm⟩

theorem witness_SingleErrorIsCorrected :
    loaded.tableReady ∧ loaded.sig.wf = true ∧ checkFn loaded.sig = 0 ∧
      (0 : BitVec 10).toNat < 544 ∧ (543 : BitVec 10).toNat < 544 :=
  ⟨loaded_tableReady, by decide, by decide +kernel, by decide, by decide⟩

theorem witness_TwoErrorsAreStillBad :
    loaded.tableReady ∧ loaded.sig.wf = true ∧ checkFn loaded.sig = 0 ∧
      (0 : BitVec 10).toNat < 544 ∧ (543 : BitVec 10).toNat < 544 ∧ (0 : BitVec 10) ≠ 543 :=
  ⟨loaded_tableReady, by decide, by decide +kernel, by decide, by decide, by decide⟩

/-- A first CORRECT that finds nothing to correct, and a second. -/
theorem witness_SecondCorrectFlipsNothing :
    ∃ t u, exec .correct built = .next t ∧ exec .correct t = .next u := ⟨_, _, rfl, rfl⟩

theorem witness_ReadsHaveNoSideEffect :
    ∃ t, exec (.rdreg 5) untidy = .next t ∧
      t.responses = untidy.responses ++ [⟨.ok, 0x00440220⟩] := ⟨_, rfl, rfl⟩

end Sys2Proof.Tests
end

/-! ## The step at a presented command (R13, R59, R70) -/

namespace Sys2Proof.Machine

/-- What the port hands over when a command word is the next input (R59). -/
theorem takeInput_of_inputs_command {s : State} {w : CommandWord} {rest : List PortInput}
    (h : s.inputs = .command w :: rest) :
    takeInput s = .command w { s with inputs := rest } := by
  simp only [takeInput, h]

/-- The step on a taken word that decodes: the arm of `step` that hands over to `exec` (R70). -/
theorem step_of_takeInput_of_decode_ok {s s' : State} {w : CommandWord} {i : Instr}
    (htake : takeInput s = .command w s') (hdec : decode w = .ok i) : step s = exec i s' := by
  simp only [step, htake, hdec]

/-- Settles O5: the port hands over the word with the rest of its list, and the decoded word goes to
`exec`. -/
theorem stepRunsTheDecodedCommand : Obligations.StepRunsTheDecodedCommand := by
  intro s w rest i hin hdec
  exact step_of_takeInput_of_decode_ok (takeInput_of_inputs_command hin) hdec

end Sys2Proof.Machine

/-! ## Bit 31 of the divider's state (R22, R100) -/

namespace Sys2Proof.Machine

/-- Reduction by the block's generator clears bit 31, since the generator has it set (R28, R100). -/
theorem reduceWith_poly_top (t : Word) : (reduceWith Config.poly t).getLsbD 31 = false := by
  have hpoly : Config.poly.getLsbD 31 = true := by decide
  unfold reduceWith
  split
  case isTrue ht => rw [BitVec.getLsbD_xor, ht, hpoly, Bool.xor_self]
  case isFalse ht => exact Bool.eq_false_iff.mpr ht

theorem passBit_top (s : Word) (b : Bool) : (passBit s b).getLsbD 31 = false :=
  reduceWith_poly_top _

theorem passBitsWith_poly_top {s : Word} (hs : s.getLsbD 31 = false) (bits : List Bool) :
    (passBitsWith Config.poly s bits).getLsbD 31 = false := by
  induction bits generalizing s with
  | nil => exact hs
  | cons b bits ih => exact ih (passBit_top s b)

/-- The first of the eight bits clears bit 31 whatever it was, the others keep it clear. -/
theorem passByteWith_poly_top (s : Word) (v : Byte) :
    (passByteWith Config.poly s v).getLsbD 31 = false := by
  rw [passByteWith, passBitsWith, bitsMsbFirst, List.map_cons, List.foldl_cons]
  exact passBitsWith_poly_top (passBit_top s _) _

theorem passByte_top (s : Word) (v : Byte) : (passByte s v).getLsbD 31 = false :=
  passByteWith_poly_top s v

theorem checkFn_top (m : Memory) : (checkFn m).getLsbD 31 = false := by
  rw [checkFn, checkFnWith, passBytesWith, List.range_succ, List.foldl_concat]
  exact passByteWith_poly_top _ _

theorem embedFn_checksum_top (m : Memory) : (embedFn m).2.getLsbD 31 = false :=
  passBitsWith_poly_top (passBit_top _ _) _

end Sys2Proof.Machine

/-! ## The residue of a buffer, bit by bit, and the table by R164 -/

namespace Sys2Proof.Machine

theorem bitidx_eq (p : Nat) : bitidx p = 7 - p % 8 := by
  rw [bitidx]; exact congrArg (7 - ·) (Nat.and_two_pow_sub_one_eq_mod p 3)

theorem bytemask_eq (p : Nat) : bytemask p = (0x80 : Byte) >>> (p % 8) := by
  have hfin : ∀ k : Fin 8, bytemask k.val = (0x80 : Byte) >>> k.val := by decide
  have hmod : p &&& 7 = p % 8 &&& 7 := by
    rw [Nat.and_two_pow_sub_one_eq_mod p 3, Nat.and_two_pow_sub_one_eq_mod (p % 8) 3]; omega
  calc bytemask p = bytemask (p % 8) := by rw [bytemask, bytemask, hmod]
    _ = (0x80 : Byte) >>> (p % 8) := hfin ⟨p % 8, Nat.mod_lt _ (by decide)⟩

/-- The bits of byte `a` in the order they enter the divider are the positions `8 * a` to `8 * a + 7`
(R101, R120). -/
theorem bitsMsbFirst_read (m : Memory) (a : Nat) :
    bitsMsbFirst (m.read a) = (List.range 8).map fun j => m.getbit (8 * a + j) := by
  have hpos : ∀ j < 8, m.getbit (8 * a + j) = (m.read a).getLsbD (7 - j) := by
    intro j hj
    have hbyte : byteidx (8 * a + j) = a := by rw [byteidx_eq]; omega
    have hbit : bitidx (8 * a + j) = 7 - j := by rw [bitidx_eq]; omega
    rw [Memory.getbit, hbyte, hbit]
  have hmap : (List.range 8).map (fun j => m.getbit (8 * a + j)) =
      (List.range 8).map fun j => (m.read a).getLsbD (7 - j) :=
    List.map_congr_left fun j hj => hpos j (List.mem_range.mp hj)
  rw [hmap]
  rfl

/-- The divider after bytes 0 to `n - 1` is the divider after their bits in the order of the
positions (R101, R120, R143). -/
theorem passBytesWith_eq_foldl_getbit (g : Word) (m : Memory) (n : Nat) :
    passBytesWith g m n = (List.range (8 * n)).foldl (fun c p => passBitWith g c (m.getbit p)) 0 := by
  induction n with
  | zero => rfl
  | succ n ih =>
    have hbytes : passBytesWith g m (n + 1) = passByteWith g (passBytesWith g m n) (m.read n) := by
      simp only [passBytesWith, List.range_succ, List.foldl_concat]
    rw [hbytes, ih, passByteWith, passBitsWith, bitsMsbFirst_read, Nat.mul_succ, List.range_add,
      List.foldl_append, List.foldl_map, List.foldl_map]

@[simp] theorem passBitWith_zero_false (g : Word) : passBitWith g 0 false = 0 := by
  simp [passBitWith, reduceWith]

@[simp] theorem passBitWith_zero_true (g : Word) : passBitWith g 0 true = 1 := by
  simp [passBitWith, reduceWith]

/-- The divider stays zero while only zero bits enter it (R104). -/
theorem foldl_passBitWith_zeros (g : Word) {b : Nat → Bool} {n : Nat} (hb : ∀ q < n, b q = false) :
    (List.range n).foldl (fun c q => passBitWith g c (b q)) 0 = 0 := by
  induction n with
  | zero => rfl
  | succ n ih =>
    rw [List.range_succ, List.foldl_concat, ih fun q hq => hb q (by omega), hb n (by omega),
      passBitWith_zero_false]

/-- One set bit at `p`, then `k` zero bits: `PassBit(·, 0)` applied `k` times to 1 (R163, R164). -/
theorem foldl_passBitWith_single (g : Word) {b : Nat → Bool} {p k : Nat}
    (hb : ∀ q ≤ p + k, b q = decide (q = p)) :
    (List.range (p + 1 + k)).foldl (fun c q => passBitWith g c (b q)) 0 =
      (passBitWith g · false)^[k] 1 := by
  induction k with
  | zero =>
    have hzeros : ∀ q < p, b q = false := fun q hq => by
      rw [hb q (by omega), decide_eq_false (by omega)]
    rw [Nat.add_zero, List.range_succ, List.foldl_concat, foldl_passBitWith_zeros g hzeros,
      hb p (by omega), decide_eq_true rfl, passBitWith_zero_true, Function.iterate_zero_apply]
  | succ k ih =>
    have hlast : b (p + 1 + k) = false := by rw [hb _ (by omega), decide_eq_false (by omega)]
    rw [← Nat.add_assoc, List.range_succ, List.foldl_concat, ih fun q hq => hb q (by omega), hlast,
      Function.iterate_succ_apply']

/-- Within a byte the mask of a position has the bit of that position alone (R120). -/
theorem bytemask_getLsbD_bitidx (p q : Nat) :
    (bytemask p).getLsbD (bitidx q) = decide (q % 8 = p % 8) := by
  have hfin : ∀ x y : Fin 8,
      ((0x80 : Byte) >>> x.val).getLsbD (7 - y.val) = decide (y.val = x.val) := by decide
  rw [bytemask_eq, bitidx_eq]
  exact hfin ⟨p % 8, Nat.mod_lt _ (by decide)⟩ ⟨q % 8, Nat.mod_lt _ (by decide)⟩

@[simp] theorem getbit_nil (q : Nat) : Memory.getbit [] q = false := by
  simp [Memory.getbit, Config.sigResetByte]

/-- The reference buffer with position `p` flipped has that position alone set (R160). -/
theorem getbit_flip_nil (p q : Nat) : (Memory.flip [] p).getbit q = decide (q = p) := by
  rw [Memory.getbit, read_flip wf_nil]
  split
  case isTrue hbyte =>
    rw [byteidx_eq, byteidx_eq] at hbyte
    have hpos : q % 8 = p % 8 ↔ q = p := by omega
    simp [Config.sigResetByte, bytemask_getLsbD_bitidx, hpos]
  case isFalse hbyte =>
    have hne : q ≠ p := fun h => hbyte (h ▸ rfl)
    simp [Config.sigResetByte, hne]

/-- The entry of position `p` by its definition is `PassBit(·, 0)` applied `543 - p` times to 1
(R160, R164). -/
theorem probeWith_eq_iterate (g : Word) (p : Fin 544) :
    probeWith g p = (passBitWith g · false)^[543 - p.val] 1 := by
  have hlen : 8 * 68 = p.val + 1 + (543 - p.val) := by omega
  rw [probeWith, checkFnWith, passBytesWith_eq_foldl_getbit, hlen]
  exact foldl_passBitWith_single g fun q _ => getbit_flip_nil p.val q

/-- The list the recurrence builds, written out: the highest power first (R164). -/
theorem powersWith_eq (g : Word) (n : Nat) (x : Word) (acc : List Word) :
    powersWith g n x acc =
      ((List.range n).reverse.map fun k => (passBitWith g · false)^[k] x) ++ acc := by
  induction n generalizing x acc with
  | zero => rfl
  | succ n ih => simp [powersWith, ih, List.range_succ_eq_map, Function.comp_def]

theorem syntabWith_eq_iterate (g : Word) (p : Fin 544) :
    (syntabWith g)[p] = (passBitWith g · false)^[543 - p.val] 1 := by
  simp only [Fin.getElem_fin, syntabWith, Vector.getElem_mk, List.getElem_toArray, powersWith_eq,
    List.append_nil, List.getElem_map, List.getElem_reverse, List.getElem_range, List.length_range,
    Nat.reduceSub]

/-- The table by the recurrence of R164 is the table by the definition of R160, for every generator. -/
theorem syntabWith_eq_probeWith (g : Word) (p : Fin 544) : (syntabWith g)[p] = probeWith g p := by
  rw [syntabWith_eq_iterate, probeWith_eq_iterate]

end Sys2Proof.Machine

/-! ## What a command can do, said once (R82, R272, R273) -/

namespace Sys2Proof.Machine

open Sys2Proof.Claims

/-- What the command `i` can make of the state `s`: it is refused, or it makes the update of its own
rule. Each constructor carries the guards its update is made under. -/
inductive CommandEffect (s : State) : Instr → State → Prop
  /-- The command is refused (R272); of those that write `CRC` only BUILD can be. -/
  | refused {i : Instr} (e : StatusCode) (hne : e ≠ .ok) (hcrc : writesCrc i → i = .build) :
      CommandEffect s i ((s.recordError e).answer ⟨e, 0⟩)
  /-- The command answers a value and writes nothing (R56). -/
  | read {i : Instr} (d : Word) (hcrc : ¬ writesCrc i) : CommandEffect s i (s.answer ⟨.ok, d⟩)
  | srst : CommandEffect s .srst (s.resetBlock.answer ⟨.ok, 0⟩)
  | clrcrc : CommandEffect s .clrcrc ((s.setCrc 0).answer ⟨.ok, 0⟩)
  | ldcrc (v : Word) : CommandEffect s (.ldcrc v) ((s.setCrc v).answer ⟨.ok, v⟩)
  | passbit (b : Bool) :
      CommandEffect s (.passbit b) ((s.setCrc (passBit s.crc b)).answer ⟨.ok, passBit s.crc b⟩)
  | passbyte (v : Byte) :
      CommandEffect s (.passbyte v) ((s.setCrc (passByte s.crc v)).answer ⟨.ok, passByte s.crc v⟩)
  | wrsig {addr : BitVec 7} (v : Byte) (haddr : addr.toNat < 68) :
      CommandEffect s (.wrsig addr v) ((s.setSig (s.sig.write addr.toNat v)).answer ⟨.ok, 0⟩)
  | flipbit {idx : BitVec 10} (hidx : idx.toNat < 544) :
      CommandEffect s (.flipbit idx) ((s.setSig (s.sig.flip idx.toNat)).answer
        ⟨.ok, ((s.sig.flip idx.toNat).read (byteidx idx.toNat)).setWidth 32⟩)
  | embed : CommandEffect s .embed
      (((s.setSig (embedFn s.sig).1).setCrc (embedFn s.sig).2).answer ⟨.ok, (embedFn s.sig).2⟩)
  | check : CommandEffect s .check
      ((((s.setCrc (checkFn s.sig)).setSynd (checkFn s.sig)).setAttempt Config.notFound false).answer
        ⟨.ok, checkFn s.sig⟩)
  | build (hce : s.ce = false) (htv : s.tv = false) : CommandEffect s .build
      (((s.installTable (syntabWith Config.poly)).setCrc 0).answer ⟨.ok, 0⟩)
  /-- CORRECT flips nothing: class GOOD or STILL_BAD (R200). -/
  | notCorrected (c : CorrectionClass) (hce : s.ce = false) (htv : s.tv = true) :
      CommandEffect s .correct
        ((s.setAttempt Config.notFound false).answer ⟨.ok, correctionData c Config.notFound⟩)
  /-- CORRECT flips the position it has found: class FIXED (R200). -/
  | corrected (hce : s.ce = false) (htv : s.tv = true)
      (hfound : (findBit s.table s.synd).toNat < 544) : CommandEffect s .correct
        ((((s.setSig (s.sig.flip (findBit s.table s.synd).toNat)).setSynd 0).setAttempt
          (findBit s.table s.synd) true).answer
            ⟨.ok, correctionData .fixed (findBit s.table s.synd)⟩)

variable {s t : State} {i : Instr}

/-- A command behind the address check has the refusal's effect or that of what follows the check. -/
theorem withAddr_effect {addr : BitVec 7} {k : Fin 68 → Host.Outcome State Fault Refusal}
    (h : withAddr addr s k = .next t) (hcrc : ¬ writesCrc i)
    (hk : ∀ a : Fin 68, a.val = addr.toNat → k a = .next t → CommandEffect s i t) :
    CommandEffect s i t := by
  obtain ⟨a, ha, hka⟩ | ⟨-, rfl⟩ := withAddr_cases h
  · exact hk a ha hka
  · exact .refused .eAddr (by decide) fun hw => absurd hw hcrc

theorem withIndex_effect {idx : BitVec 10} {k : Fin 544 → Host.Outcome State Fault Refusal}
    (h : withIndex idx s k = .next t) (hcrc : ¬ writesCrc i)
    (hk : ∀ p : Fin 544, p.val = idx.toNat → k p = .next t → CommandEffect s i t) :
    CommandEffect s i t := by
  obtain ⟨p, hp, hkp⟩ | ⟨-, rfl⟩ := withIndex_cases h
  · exact hk p hp hkp
  · exact .refused .eAddr (by decide) fun hw => absurd hw hcrc

theorem withTable_effect {k : Vector Word 544 → Host.Outcome State Fault Refusal}
    (h : withTable s k = .next t) (hcrc : ¬ writesCrc i)
    (hk : s.ce = false → s.tv = true → k s.table = .next t → CommandEffect s i t) :
    CommandEffect s i t := by
  obtain ⟨-, rfl⟩ | ⟨-, -, rfl⟩ | ⟨hce, htv, hkt⟩ := withTable_cases h
  · exact .refused .eCfg (by decide) fun hw => absurd hw hcrc
  · exact .refused .eNotab (by decide) fun hw => absurd hw hcrc
  · exact hk hce htv hkt

/-- A command that answers a value has the effect of a read. -/
theorem respond_effect {d : Word} (h : respond d s = .next t) (hcrc : ¬ writesCrc i) :
    CommandEffect s i t := by
  obtain rfl := respond_next h
  exact .read d hcrc

/-- A read of the table behind the checks 3 to 5 (R172 to R174, R273). -/
theorem tableRead_effect {idx : BitVec 10} {d : Fin 544 → Vector Word 544 → Word}
    (h : withIndex idx s (fun p => withTable s fun tab => respond (d p tab) s) = .next t)
    (hcrc : ¬ writesCrc i) : CommandEffect s i t :=
  withIndex_effect h hcrc fun _ _ hk => withTable_effect hk hcrc fun _ _ hr => respond_effect hr hcrc

theorem execWrsig_effect {addr : BitVec 7} {v : Byte} (h : execWrsig addr v s = .next t) :
    CommandEffect s (.wrsig addr v) t := by
  refine withAddr_effect h (by simp [writesCrc]) fun a ha hk => ?_
  obtain rfl := respond_next hk
  rw [ha]
  exact .wrsig v (ha ▸ a.isLt)

theorem execRdsig_effect {addr : BitVec 7} (h : execRdsig addr s = .next t) :
    CommandEffect s (.rdsig addr) t := by
  have hcrc : ¬ writesCrc (.rdsig addr) := by simp [writesCrc]
  exact withAddr_effect h hcrc fun _ _ hk => respond_effect hk hcrc

theorem execFlipbit_effect {idx : BitVec 10} (h : execFlipbit idx s = .next t) :
    CommandEffect s (.flipbit idx) t := by
  refine withIndex_effect h (by simp [writesCrc]) fun p hp hk => ?_
  obtain rfl := respond_next hk
  rw [hp]
  exact .flipbit (hp ▸ p.isLt)

theorem execFind_effect {v : Word} (h : execFind v s = .next t) : CommandEffect s (.find v) t := by
  have hcrc : ¬ writesCrc (.find v) := by simp [writesCrc]
  exact withTable_effect h hcrc fun _ _ hk => respond_effect hk hcrc

theorem execRdreg_effect {reg : BitVec 4} (h : execRdreg reg s = .next t) :
    CommandEffect s (.rdreg reg) t := by
  have hcrc : ¬ writesCrc (.rdreg reg) := by simp [writesCrc]
  unfold execRdreg at h
  split at h
  · exact respond_effect h hcrc
  · obtain rfl := raise_next h
    exact .refused .eAddr (by decide) fun hw => absurd hw hcrc

theorem execBuild_effect (h : execBuild s = .next t) : CommandEffect s .build t := by
  obtain ⟨-, rfl⟩ | ⟨-, -, rfl⟩ | ⟨hce, htv, hk⟩ := withoutTable_cases h
  · exact .refused .eCfg (by decide) fun _ => rfl
  · exact .refused .eState (by decide) fun _ => rfl
  · rw [buildWith_poly] at hk
    obtain rfl := respond_next hk
    exact .build hce htv

theorem execCorrect_effect (h : execCorrect s = .next t) : CommandEffect s .correct t := by
  refine withTable_effect h (by simp [writesCrc]) fun hce htv _ => ?_
  obtain ⟨-, rfl⟩ | ⟨-, p, hp, -, rfl⟩ | ⟨-, -, -, rfl⟩ := execCorrect_cases h hce htv
  · exact .notCorrected .good hce htv
  · rw [← hp]
    exact .corrected hce htv (hp ▸ p.isLt)
  · exact .notCorrected .stillBad hce htv

/-- Everything a command can do. -/
theorem exec_effect (h : exec i s = .next t) : CommandEffect s i t := by
  cases i with
  | nop => exact respond_effect h (by simp [writesCrc])
  | srst => obtain rfl := respond_next h; exact .srst
  | rdreg reg => exact execRdreg_effect h
  | clrcrc => obtain rfl := respond_next h; exact .clrcrc
  | ldcrc v => obtain rfl := respond_next h; exact .ldcrc v
  | passbit b => obtain rfl := respond_next h; exact .passbit b
  | passbyte v => obtain rfl := respond_next h; exact .passbyte v
  | wrsig addr v => exact execWrsig_effect h
  | rdsig addr => exact execRdsig_effect h
  | flipbit idx => exact execFlipbit_effect h
  | embed => obtain rfl := respond_next h; exact .embed
  | check => obtain rfl := respond_next h; exact .check
  | build => exact execBuild_effect h
  | rdtab idx => exact tableRead_effect (d := fun p tab => tab[p]) h (by simp [writesCrc])
  | rdsorts idx =>
    exact tableRead_effect (d := fun p tab => (sortedView tab)[p].syn) h (by simp [writesCrc])
  | rdsortp idx =>
    exact tableRead_effect (d := fun p tab => (sortedView tab)[p].pos.setWidth 32) h
      (by simp [writesCrc])
  | find v => exact execFind_effect h
  | correct => exact execCorrect_effect h

/-- Everything a step can do: idle, a hard reset, a command, or the refusal of a word that is none
(R13, R76, R300). -/
theorem step_cases (h : step s = .next t) :
    (s.inputs = [] ∧ t = s) ∨
    (∃ rest, s.inputs = .hardReset :: rest ∧ t = { s with inputs := rest }.resetBlock) ∨
    ∃ w rest, s.inputs = .command w :: rest ∧
      ((∃ i, decode w = .ok i ∧ exec i { s with inputs := rest } = .next t) ∨
        ∃ e, decode w = .error e ∧ refuseWord e { s with inputs := rest } = .next t) := by
  match hin : s.inputs with
  | [] =>
    simp only [step, takeInput, hin, idle, Host.Outcome.next.injEq] at h
    exact .inl ⟨rfl, h.symm⟩
  | .hardReset :: rest =>
    simp only [step, takeInput, hin, hardReset, Host.Outcome.next.injEq] at h
    exact .inr (.inl ⟨rest, rfl, h.symm⟩)
  | .handshakeViolation :: rest => simp [step, takeInput, hin] at h
  | .command w :: rest =>
    refine .inr (.inr ⟨w, rest, rfl, ?_⟩)
    simp only [step, takeInput_of_inputs_command hin] at h
    match hdec : decode w with
    | .ok i => exact .inl ⟨i, rfl, by simpa only [hdec] using h⟩
    | .error e => exact .inr ⟨e, rfl, by simpa only [hdec] using h⟩

end Sys2Proof.Machine

/-! ## The invariant under each update of the state (R35) -/

namespace Sys2Proof.Machine

/-- A refusal's code is none of `OK`'s 0 (R271). -/
theorem StatusCode.code_ne_zero {e : StatusCode} (hne : e ≠ .ok) : e.code ≠ 0 := by
  cases e with
  | ok => exact absurd rfl hne
  | eOpc | eArg | eAddr | eCfg | eNotab | eState => decide

theorem StatusCode.code_le_six (e : StatusCode) : e.code.toNat ≤ 6 := by cases e <;> decide

theorem decodeErrorStatus_ne_ok (e : DecodeError) : decodeErrorStatus e ≠ .ok := by
  cases e <;> decide

/-- R34: the reset values meet R35, whatever stands in the host's lists. -/
theorem State.inv_resetBlock (s : State) : s.resetBlock.Inv where
  syndTop := by simp
  posWhenFixed := by simp
  posWhenNotFixed := by simp
  noTableOnConfigError := by simp
  errIffCode := by simp
  codeRange := by simp
  configErrorRecorded := by simp
  tableRight := by simp
  sigCanonical := reset_sig_wf

namespace State.Inv

variable {s : State} (h : s.Inv)
include h

theorem setInputs (rest : List PortInput) : ({ s with inputs := rest } : State).Inv := { h with }

theorem answer (r : Response) : (s.answer r).Inv := { h with }

theorem setCrc (v : Word) : (s.setCrc v).Inv := { h with }

theorem setSig {m : Memory} (hm : m.wf = true) : (s.setSig m).Inv := { h with sigCanonical := hm }

theorem setSynd {v : Word} (hv : v.getLsbD 31 = false) : (s.setSynd v).Inv :=
  { h with syndTop := hv }

theorem noCorrection : (s.setAttempt Config.notFound false).Inv :=
  { h with posWhenFixed := nofun, posWhenNotFixed := fun _ => rfl }

theorem recordCorrection {p : BitVec 10} (hp : p.toNat < 544) : (s.setAttempt p true).Inv :=
  { h with posWhenFixed := fun _ => hp, posWhenNotFixed := nofun }

theorem recordError {e : StatusCode} (hne : e ≠ .ok) : (s.recordError e).Inv := by
  refine { h with errIffCode := ?_, codeRange := ?_, configErrorRecorded := fun _ => rfl }
  · cases herr : s.err with
    | false => simpa [herr] using StatusCode.code_ne_zero hne
    | true =>
      have hcode : s.ecode ≠ 0 := fun h0 => by simp [h.errIffCode.mpr h0] at herr
      simpa [herr] using hcode
  · cases herr : s.err with
    | false => simpa [herr] using e.code_le_six
    | true => simpa [herr] using h.codeRange

/-- The table BUILD installs is the one of R160, by the recurrence of R164. -/
theorem installTable (hce : s.ce = false) : (s.installTable (syntabWith Config.poly)).Inv :=
  { h with
    noTableOnConfigError := fun hce' => absurd (hce.symm.trans hce') Bool.false_ne_true
    tableRight := fun _ => ⟨_, rfl, syntabWith_eq_probeWith Config.poly⟩ }

end State.Inv

/-- The checksum's four bytes keep the canonical form (R142). -/
theorem wf_writeChecksum {m : Memory} (hm : m.wf = true) (c : Word) :
    (writeChecksum m c).wf = true :=
  wf_write (wf_write (wf_write (wf_write hm (by decide)) (by decide)) (by decide)) (by decide)

/-- Every command keeps the invariant (R35). -/
theorem State.Inv.of_exec {i : Instr} {s t : State} (hs : s.Inv) (h : exec i s = .next t) :
    t.Inv := by
  cases exec_effect h with
  | refused e hne => exact (hs.recordError hne).answer _
  | read d => exact hs.answer _
  | srst => exact s.inv_resetBlock.answer _
  | clrcrc | ldcrc | passbit | passbyte => exact (hs.setCrc _).answer _
  | wrsig v haddr => exact (hs.setSig (wf_write hs.sigCanonical haddr)).answer _
  | flipbit hidx => exact (hs.setSig (wf_flip hs.sigCanonical hidx)).answer _
  | embed => exact ((hs.setSig (wf_writeChecksum hs.sigCanonical _)).setCrc _).answer _
  | check => exact (((hs.setCrc _).setSynd (checkFn_top _)).noCorrection).answer _
  | build hce => exact ((hs.installTable hce).setCrc _).answer _
  | notCorrected => exact hs.noCorrection.answer _
  | corrected hce htv hfound =>
    have hflip := hs.setSig (wf_flip hs.sigCanonical hfound)
    exact ((hflip.setSynd (by decide)).recordCorrection hfound).answer _

/-- Settles O15: idle keeps the state, a hard reset reaches the reset values, a refused word records
its error, and each command keeps the invariant by its effect. -/
theorem stepKeepsTheInvariant : Obligations.StepKeepsTheInvariant := by
  intro s t hs h
  obtain ⟨-, rfl⟩ | ⟨rest, -, rfl⟩ | ⟨w, rest, -, ⟨i, -, hexec⟩ | ⟨e, -, href⟩⟩ := step_cases h
  · exact hs
  · exact State.inv_resetBlock _
  · exact (hs.setInputs rest).of_exec hexec
  · obtain rfl := raise_next href
    exact ((hs.setInputs rest).recordError (decodeErrorStatus_ne_ok e)).answer _

/-- Settles O14: the reset state is its own reset. -/
theorem resetSatisfiesTheInvariant : Obligations.ResetSatisfiesTheInvariant :=
  State.inv_resetBlock State.reset

end Sys2Proof.Machine

/-! ## What commands keep: bit 31 of `CRC`, the built table, the error record (R22, R26, R31) -/

namespace Sys2Proof.Machine

open Sys2Proof.Claims

/-- Settles O16: every value a command writes to `CRC` has bit 31 clear but the operand of LDCRC, and
a refused BUILD leaves `CRC` alone. -/
theorem crcTopBitOnlyFromLdcrc : Obligations.CrcTopBitOnlyFromLdcrc := by
  intro i s t h htop
  cases exec_effect h with
  | refused e hne hcrc =>
    by_cases hi : i = .build
    · exact .inr (.inl ⟨hi, rfl⟩)
    · exact .inl ⟨fun hw => hi (hcrc hw), rfl⟩
  | read d hcrc => exact .inl ⟨hcrc, rfl⟩
  | ldcrc v => exact .inr (.inr ⟨v, rfl, htop, rfl⟩)
  | srst | clrcrc | build => simp at htop
  | passbit b => exact absurd htop (Bool.eq_false_iff.mp (passBit_top _ _))
  | passbyte v => exact absurd htop (Bool.eq_false_iff.mp (passByte_top _ _))
  | embed => exact absurd htop (Bool.eq_false_iff.mp (embedFn_checksum_top _))
  | check => exact absurd htop (Bool.eq_false_iff.mp (checkFn_top _))
  | wrsig | flipbit | notCorrected | corrected => exact .inl ⟨by simp [writesCrc], rfl⟩

/-- Settles O17: BUILD is refused once `TV` is 1, and no other command but SRST writes `TV` or the
table. -/
theorem builtTableIsImmutable : Obligations.BuiltTableIsImmutable := by
  intro i s t htv hi h
  cases exec_effect h with
  | srst => exact absurd rfl hi
  | build _ hno => exact absurd (hno.symm.trans htv) Bool.false_ne_true
  | refused | read | clrcrc | ldcrc | passbit | passbyte | wrsig | flipbit | embed | check
  | notCorrected | corrected => exact ⟨htv, rfl⟩

/-- Settles O18: only a refusal writes the error record, and it keeps the first code; no command but
SRST clears `CE`. -/
theorem errorRecordIsSticky : Obligations.ErrorRecordIsSticky := by
  intro i s t hi h
  cases exec_effect h with
  | srst => exact absurd rfl hi
  | refused e => exact ⟨fun herr => ⟨rfl, by simp [herr]⟩, id⟩
  | read | clrcrc | ldcrc | passbit | passbyte | wrsig | flipbit | embed | check | build
  | notCorrected | corrected => exact ⟨fun herr => ⟨herr, rfl⟩, id⟩

end Sys2Proof.Machine

/-! ## `STATUS` bit by bit, and the reset values (R25, R34) -/

namespace Sys2Proof.Machine

open Sys2Proof.Claims

theorem flagAt_getLsbD {n : Nat} (hn : n < 32) (b : Bool) (k : Nat) :
    (flagAt n b).getLsbD k = (decide (k = n) && b) := by
  rw [flagAt, BitVec.getLsbD_shiftLeft, BitVec.getLsbD_setWidth, BitVec.getLsbD_ofBool]
  by_cases hk : k = n
  · subst hk; simp [hn]
  · by_cases hlt : k < n
    · simp [hk, hlt]
    · have hsub : k - n ≠ 0 := by omega
      simp [hk, hsub]

/-- Every bit of `STATUS`: the flag of its place below bit 8, `ECODE` from bit 8 on (R25). -/
theorem status_getLsbD (s : State) (k : Nat) :
    s.status.getLsbD k =
      ((decide (k = 0) && s.tv) || (decide (k = 1) && s.ce) || (decide (k = 2) && s.err) ||
        (decide (k = 3) && s.z) || (decide (k = 4) && s.fix) ||
        (decide (8 ≤ k) && s.ecode.getLsbD (k - 8))) := by
  have hcode : ((s.ecode.setWidth 32 : Word) <<< 8).getLsbD k =
      (decide (8 ≤ k) && s.ecode.getLsbD (k - 8)) := by
    rw [BitVec.getLsbD_shiftLeft, BitVec.getLsbD_setWidth]
    by_cases hk : k < 12
    · simp [show k < 32 by omega, show k - 8 < 32 by omega, ← decide_not]
    · simp [BitVec.getLsbD_of_ge s.ecode (k - 8) (by omega)]
  simp only [State.status, BitVec.getLsbD_or, flagAt_getLsbD (show 0 < 32 by decide),
    flagAt_getLsbD (show 1 < 32 by decide), flagAt_getLsbD (show 2 < 32 by decide),
    flagAt_getLsbD (show 3 < 32 by decide), flagAt_getLsbD (show 4 < 32 by decide), hcode]

/-- From bit 5 on `STATUS` holds `ECODE` at bit 8 and nothing else (R25). -/
theorem status_getLsbD_of_five_le (s : State) {k : Nat} (hk : 5 ≤ k) :
    s.status.getLsbD k = (decide (8 ≤ k) && s.ecode.getLsbD (k - 8)) := by
  have hlow : ∀ n < 5, k ≠ n := fun n hn => by omega
  rw [status_getLsbD]
  simp [hlow]

/-- Settles O22, from the one equation for every bit. -/
theorem statusWordLayout : Obligations.StatusWordLayout := by
  intro s
  refine ⟨?_, ?_, ?_, ?_, ?_, fun k hlo hhi => ?_, ?_, fun k hk => ?_⟩
  · rw [status_getLsbD]; simp
  · rw [status_getLsbD]; simp
  · rw [status_getLsbD]; simp
  · rw [status_getLsbD]; simp [State.z, beq_eq_decide]
  · rw [status_getLsbD]; simp
  · have hbelow : ¬ 8 ≤ k := by omega
    rw [status_getLsbD_of_five_le s hlo, decide_eq_false hbelow, Bool.false_and]
  · apply BitVec.eq_of_getLsbD_eq
    intro k hk
    rw [BitVec.getLsbD_extractLsb', status_getLsbD_of_five_le s (by omega)]
    simp [hk]
  · rw [status_getLsbD_of_five_le s (by omega), BitVec.getLsbD_of_ge s.ecode _ (by omega),
      Bool.and_false]

/-- The reference buffer has zero residue (R34, R104). -/
@[simp] theorem checkFn_nil : checkFn [] = 0 := by
  rw [checkFn, checkFnWith, passBytesWith_eq_foldl_getbit]
  exact foldl_passBitWith_zeros _ fun q _ => getbit_nil q

/-- Without a table and without a configuration error a reader of the table is refused (R273). -/
theorem withTable_absent {s : State} {k : Vector Word 544 → Host.Outcome State Fault Refusal}
    (hce : s.ce = false) (htv : s.tv = false) : withTable s k = raise .eNotab s := by
  simp [withTable, hce, htv]

/-- A command that reads the table is refused with `E_NOTAB` right after reset (R31, R34). -/
theorem tableRead_reset {idx : BitVec 10} (hidx : idx.toNat < 544)
    (k : Fin 544 → Vector Word 544 → Host.Outcome State Fault Refusal) :
    withIndex idx State.reset (fun p => withTable State.reset (k p)) =
      .next (refused .eNotab 5 State.reset) := by
  rw [withIndex_legal hidx, withTable_absent rfl rfl]
  rfl

/-- Settles O13: each register is read off the reset state, the residue of the empty buffer is zero,
and the table reads stop at check 5. -/
theorem resetLeavesTheSpecValues : Obligations.ResetLeavesTheSpecValues := by
  refine ⟨rfl, rfl, rfl, rfl, rfl, rfl, rfl, rfl, rfl, by decide, rfl, rfl, fun a _ => rfl,
    checkFn_nil, rfl, fun idx hidx => ⟨?_, ?_, ?_⟩⟩
  · exact tableRead_reset hidx fun p tab => respond tab[p] State.reset
  · exact tableRead_reset hidx fun p tab => respond (sortedView tab)[p].syn State.reset
  · exact tableRead_reset hidx fun p tab =>
      respond ((sortedView tab)[p].pos.setWidth 32) State.reset

end Sys2Proof.Machine

/-! ## Operands out of range (R55, R273 check 3) -/

namespace Sys2Proof.Machine

open Sys2Proof.Claims

theorem execRdreg_illegal {reg : BitVec 4} {s : State} (h : ¬ reg.toNat < 6) :
    execRdreg reg s = raise .eAddr s := by
  rw [execRdreg, readReg_none.mpr (Nat.le_of_not_lt h)]

/-- Check 3 of R273 comes before every other check of a meaning. -/
theorem exec_of_not_wf {i : Instr} (s : State) (h : i.wf = false) :
    exec i s = raise .eAddr s := by
  cases i with
  | rdreg reg => exact execRdreg_illegal (of_decide_eq_false h)
  | wrsig addr | rdsig addr =>
    have haddr : ¬ addr.toNat < 68 := of_decide_eq_false h
    simp only [exec, execWrsig, execRdsig, withAddr_illegal haddr]
  | flipbit idx | rdtab idx | rdsorts idx | rdsortp idx =>
    have hidx : ¬ idx.toNat < 544 := of_decide_eq_false h
    simp only [exec, execFlipbit, execRdtab, execRdsorts, execRdsortp, withIndex_illegal hidx]
  | nop | srst | clrcrc | ldcrc | passbit | passbyte | embed | check | build | find | correct =>
    nomatch h

/-- Settles O36: each command with an ill-formed operand stops at check 3, whose refusal is R272's. -/
theorem outOfRangeOperandRefused : Obligations.OutOfRangeOperandRefused := by
  intro s i h
  calc exec i s = raise .eAddr s := exec_of_not_wf s h
    _ = .next (refused .eAddr 3 s) := rfl

end Sys2Proof.Machine

/-! ## Reads answer the same when repeated (R56) -/

namespace Sys2Proof.Machine

open Sys2Proof.Claims

/-- At the state `s` the command `c` is refused, or it answers a value and writes nothing, and answers
that same value after whatever response the port has delivered in between. -/
def ReadsSteadily (c : State → Host.Outcome State Fault Refusal) (s : State) : Prop :=
  (∃ d, c s = respond d s ∧ ∀ r, c (s.answer r) = respond d (s.answer r)) ∨
    ∃ e, e ≠ .ok ∧ c s = raise e s

section

variable {s : State}

/-- A value that does not depend on the delivered responses is read steadily. -/
theorem readsSteadily_respond {v : State → Word} (hv : ∀ r, v (s.answer r) = v s) :
    ReadsSteadily (fun s => respond (v s) s) s :=
  .inl ⟨v s, rfl, fun r => congrArg (respond · (s.answer r)) (hv r)⟩

theorem readsSteadily_withAddr {addr : BitVec 7}
    {c : Fin 68 → State → Host.Outcome State Fault Refusal} (hc : ∀ a, ReadsSteadily (c a) s) :
    ReadsSteadily (fun s => withAddr addr s (c · s)) s := by
  by_cases haddr : addr.toNat < 68
  · simpa only [ReadsSteadily, withAddr_legal haddr] using hc ⟨addr.toNat, haddr⟩
  · exact .inr ⟨.eAddr, by decide, withAddr_illegal haddr⟩

theorem readsSteadily_withIndex {idx : BitVec 10}
    {c : Fin 544 → State → Host.Outcome State Fault Refusal} (hc : ∀ p, ReadsSteadily (c p) s) :
    ReadsSteadily (fun s => withIndex idx s (c · s)) s := by
  by_cases hidx : idx.toNat < 544
  · simpa only [ReadsSteadily, withIndex_legal hidx] using hc ⟨idx.toNat, hidx⟩
  · exact .inr ⟨.eAddr, by decide, withIndex_illegal hidx⟩

theorem readsSteadily_withTable {c : Vector Word 544 → State → Host.Outcome State Fault Refusal}
    (hc : ∀ tab, ReadsSteadily (c tab) s) :
    ReadsSteadily (fun s => withTable s (c · s)) s := by
  cases hce : s.ce with
  | true => exact .inr ⟨.eCfg, by decide, if_pos hce⟩
  | false =>
    cases htv : s.tv with
    | false => exact .inr ⟨.eNotab, by decide, withTable_absent hce htv⟩
    | true =>
      have hready (r : Response) : withTable (s.answer r) (c · (s.answer r)) =
          c s.table (s.answer r) := withTable_ready hce htv
      simpa only [ReadsSteadily, withTable_ready hce htv, hready] using hc s.table

theorem readsSteadily_tableRead {idx : BitVec 10} {d : Fin 544 → Vector Word 544 → Word} :
    ReadsSteadily (fun s => withIndex idx s fun p => withTable s fun tab => respond (d p tab) s) s :=
  readsSteadily_withIndex fun p => readsSteadily_withTable fun tab =>
    readsSteadily_respond (v := fun _ => d p tab) fun _ => rfl

theorem readsSteadily_rdreg (reg : BitVec 4) : ReadsSteadily (execRdreg reg) s := by
  have hsame (r : Response) : readReg reg (s.answer r) = readReg reg s := rfl
  simp only [ReadsSteadily, execRdreg, hsame]
  cases readReg reg s with
  | some v => exact .inl ⟨v, rfl, fun _ => rfl⟩
  | none => exact .inr ⟨.eAddr, by decide, rfl⟩

/-- A command that reads steadily and answers `OK` has delivered nothing but its answer, and answers
the same again. -/
theorem ReadsSteadily.repeats {c : State → Host.Outcome State Fault Refusal} {t : State}
    {r : Response} (hc : ReadsSteadily c s) (h : c s = .next t)
    (hresp : t.responses = s.responses ++ [r]) (hok : r.st = .ok) :
    t = answered r.data s ∧ c t = .next (answered r.data t) := by
  obtain ⟨d, hfirst, hagain⟩ | ⟨e, hne, href⟩ := hc
  · obtain rfl := respond_next (hfirst.symm.trans h)
    obtain rfl : ⟨.ok, d⟩ = r := by simpa using hresp
    exact ⟨rfl, hagain _⟩
  · obtain rfl := raise_next (href.symm.trans h)
    obtain rfl : ⟨e, 0⟩ = r := by simpa using hresp
    exact absurd hok hne

end

/-- Settles O57: each of the seven reads behind its checks answers a value that the delivered
responses do not enter. -/
theorem readsHaveNoSideEffect : Obligations.ReadsHaveNoSideEffect := by
  intro i s t r hread h hresp hok
  suffices hsteady : ReadsSteadily (exec i) s from hsteady.repeats h hresp hok
  obtain rfl | ⟨reg, rfl⟩ | ⟨addr, rfl⟩ | ⟨idx, rfl⟩ | ⟨idx, rfl⟩ | ⟨idx, rfl⟩ | ⟨x, rfl⟩ := hread
  · exact readsSteadily_respond (v := fun _ => 0) fun _ => rfl
  · exact readsSteadily_rdreg reg
  · exact readsSteadily_withAddr fun a =>
      readsSteadily_respond (v := fun s => (s.sig.read a).setWidth 32) fun _ => rfl
  · exact readsSteadily_tableRead (d := fun p tab => tab[p])
  · exact readsSteadily_tableRead (d := fun p tab => (sortedView tab)[p].syn)
  · exact readsSteadily_tableRead (d := fun p tab => (sortedView tab)[p].pos.setWidth 32)
  · exact readsSteadily_withTable fun tab =>
      readsSteadily_respond (v := fun _ => (findBit tab x).setWidth 32) fun _ => rfl

end Sys2Proof.Machine

/-! ## The opcode table, the decoder and the encoder (R70, R73, R75 to R79) -/

namespace Sys2Proof.Machine

open Sys2Proof.Claims Sys2Proof.Laws

/-- The row of a command in the opcode table, as (mask, match). -/
def rowOf (i : Instr) : CommandWord × CommandWord := (TableRow.mask i, TableRow.pattern i)

/-- The commands `c v` are those of one row of the opcode table: the row has a field of `n` bits at
the bottom of `arg`, of which `c` makes the command, and every bit above the field is reserved (R73,
R75). WRSIG's two neighbouring fields count as one of 15 bits, no field as one of 0 bits. -/
structure RowForm (n : Nat) (c : BitVec n → Instr) : Prop where
  width_le : n ≤ 32 := by decide
  row_eq : ∀ v, rowOf (c v) = rowOf (c 0) := by intro; rfl
  mask_eq : (rowOf (c 0)).1 = 0xFF#8 ++ BitVec.allOnes 32 <<< n := by rfl
  match_eq : (rowOf (c 0)).2 = opcode (c 0) ++ 0#32 := by rfl
  opcode_eq : ∀ v, opcode (c v) = opcode (c 0) := by intro; rfl
  argument_eq : ∀ v, argument (c v) = v.setWidth 32 := by intro; rfl
  decode_eq : ∀ arg, decodeFields (opcode (c 0)) arg =
    ifReservedClear (BitVec.allOnes 32 <<< n) arg (c (arg.extractLsb' 0 n)) := by intro; rfl

/-- Format `W`: the field fills `arg`, and no bit is above it (R73). -/
theorem decodeW_eq (c : Word → Instr) (arg : Word) :
    decodeW arg c = ifReservedClear (BitVec.allOnes 32 <<< 32) arg (c (arg.extractLsb' 0 32)) := by
  have hclear : arg &&& (BitVec.allOnes 32 <<< 32) = 0 := BitVec.and_zero
  rw [decodeW, ifReservedClear, if_pos hclear, BitVec.extractLsb'_eq_self]

/-- Format `B1`: the field of one bit (R73). -/
theorem rowForm_passbit : RowForm 1 fun v => .passbit (v.getLsbD 0) where
  argument_eq := by decide
  decode_eq arg := by
    have hbit : (arg.extractLsb' 0 1).getLsbD 0 = arg.getLsbD 0 := by simp
    rw [hbit]
    rfl

/-- Format `AV`: `addr` and `byte` side by side are the low 15 bits of `arg` (R73). -/
theorem rowForm_wrsig : RowForm 15 fun v => .wrsig (v.extractLsb' 8 7) (v.extractLsb' 0 8) where
  argument_eq v := by
    have hfields : v.extractLsb' 8 7 ++ v.extractLsb' 0 8 = v :=
      BitVec.extractLsb'_append_extractLsb'
    calc (v.extractLsb' 8 7).setWidth 32 <<< 8 ||| (v.extractLsb' 0 8).setWidth 32
        = (v.extractLsb' 8 7 ++ v.extractLsb' 0 8).setWidth 32 :=
          BitVec.setWidth_append_eq_shiftLeft_setWidth_or.symm
      _ = v.setWidth 32 := by rw [hfields]
  decode_eq arg := by
    have hlow : arg.extractLsb' 0 15 = arg.setWidth 15 :=
      (BitVec.setWidth_eq_extractLsb' (by decide)).symm
    rw [hlow, BitVec.extractLsb'_setWidth_of_le (by decide),
      BitVec.extractLsb'_setWidth_of_le (by decide)]
    rfl

/-- Every command is the command of some value of its row's field. -/
theorem exists_rowForm (i : Instr) :
    ∃ (n : Nat) (c : BitVec n → Instr) (v : BitVec n), RowForm n c ∧ c v = i := by
  cases i with
  | nop => exact ⟨0, fun _ => .nop, 0, { argument_eq := by decide }, rfl⟩
  | srst => exact ⟨0, fun _ => .srst, 0, { argument_eq := by decide }, rfl⟩
  | rdreg reg => exact ⟨4, .rdreg, reg, {}, rfl⟩
  | clrcrc => exact ⟨0, fun _ => .clrcrc, 0, { argument_eq := by decide }, rfl⟩
  | ldcrc x => exact ⟨32, .ldcrc, x, { decode_eq := decodeW_eq .ldcrc }, rfl⟩
  | passbit b => exact ⟨1, _, BitVec.ofBool b, rowForm_passbit, by simp⟩
  | passbyte byte => exact ⟨8, .passbyte, byte, {}, rfl⟩
  | wrsig addr byte =>
    refine ⟨15, _, addr ++ byte, rowForm_wrsig, ?_⟩
    rw [BitVec.extractLsb'_append_eq_left, BitVec.extractLsb'_append_eq_right]
  | rdsig addr => exact ⟨7, .rdsig, addr, {}, rfl⟩
  | flipbit idx => exact ⟨10, .flipbit, idx, {}, rfl⟩
  | embed => exact ⟨0, fun _ => .embed, 0, { argument_eq := by decide }, rfl⟩
  | check => exact ⟨0, fun _ => .check, 0, { argument_eq := by decide }, rfl⟩
  | build => exact ⟨0, fun _ => .build, 0, { argument_eq := by decide }, rfl⟩
  | rdtab idx => exact ⟨10, .rdtab, idx, {}, rfl⟩
  | rdsorts idx => exact ⟨10, .rdsorts, idx, {}, rfl⟩
  | rdsortp idx => exact ⟨10, .rdsortp, idx, {}, rfl⟩
  | find x => exact ⟨32, .find, x, { decode_eq := decodeW_eq .find }, rfl⟩
  | correct => exact ⟨0, fun _ => .correct, 0, { argument_eq := by decide }, rfl⟩

/-- Every row of the opcode table is the row of some command. -/
theorem exists_rowOf_eq {r : CommandWord × CommandWord} (hr : r ∈ tableRows) :
    ∃ i, rowOf i = r := by
  revert r
  simp only [tableRows, List.forall_mem_cons]
  exact ⟨⟨.nop, rfl⟩, ⟨.srst, rfl⟩, ⟨.rdreg 0, rfl⟩, ⟨.clrcrc, rfl⟩, ⟨.ldcrc 0, rfl⟩,
    ⟨.passbit false, rfl⟩, ⟨.passbyte 0, rfl⟩, ⟨.wrsig 0 0, rfl⟩, ⟨.rdsig 0, rfl⟩,
    ⟨.flipbit 0, rfl⟩, ⟨.embed, rfl⟩, ⟨.check, rfl⟩, ⟨.build, rfl⟩, ⟨.rdtab 0, rfl⟩,
    ⟨.rdsorts 0, rfl⟩, ⟨.rdsortp 0, rfl⟩, ⟨.find 0, rfl⟩, ⟨.correct, rfl⟩, nofun⟩

theorem exists_rowForm_of_row {r : CommandWord × CommandWord} (hr : r ∈ tableRows) :
    ∃ (n : Nat) (c : BitVec n → Instr), RowForm n c ∧ rowOf (c 0) = r := by
  obtain ⟨i, rfl⟩ := exists_rowOf_eq hr
  obtain ⟨n, c, v, hform, rfl⟩ := exists_rowForm i
  exact ⟨n, c, hform, (hform.row_eq v).symm⟩

/-- No bit from `n` on is set exactly if the low `n` bits are all of the word. -/
theorem and_reserved_eq_zero_iff {m : Nat} (n : Nat) (x : BitVec m) :
    x &&& BitVec.allOnes m <<< n = 0 ↔ (x.extractLsb' 0 n).setWidth m = x := by
  simp only [BitVec.eq_of_getLsbD_eq_iff]
  refine forall₂_congr fun k hk => ?_
  by_cases hkn : k < n
  · simp [hk, hkn]
  · simp [hk, hkn]

theorem append_fields (w : CommandWord) : opField w ++ argField w = w :=
  BitVec.extractLsb'_append_extractLsb'

theorem append_eq_append_iff {m n : Nat} {a a' : BitVec m} {b b' : BitVec n} :
    a ++ b = a' ++ b' ↔ a = a' ∧ b = b' := by
  refine ⟨fun h => ⟨?_, ?_⟩, by rintro ⟨rfl, rfl⟩; rfl⟩
  · simpa only [BitVec.extractLsb'_append_eq_left] using congrArg (BitVec.extractLsb' n m) h
  · simpa only [BitVec.extractLsb'_append_eq_right] using congrArg (BitVec.extractLsb' 0 n) h

namespace RowForm

variable {n : Nat} {c : BitVec n → Instr} (hform : RowForm n c)
include hform

theorem opByte_match : opByte (rowOf (c 0)).2 = opcode (c 0) := by
  rw [hform.match_eq]
  exact BitVec.extractLsb'_append_eq_left

/-- A word matches a row exactly if it has the row's opcode and none of its reserved bits set. -/
theorem match_iff (w : CommandWord) : w &&& (rowOf (c 0)).1 = (rowOf (c 0)).2 ↔
    opField w = opcode (c 0) ∧ argField w &&& BitVec.allOnes 32 <<< n = 0 := by
  have hop : opField w &&& 0xFF#8 = opField w := BitVec.and_allOnes
  have hand : w &&& (rowOf (c 0)).1 = opField w ++ (argField w &&& BitVec.allOnes 32 <<< n) := by
    calc w &&& (rowOf (c 0)).1
        = (opField w ++ argField w) &&& (0xFF#8 ++ BitVec.allOnes 32 <<< n) := by
          rw [append_fields, hform.mask_eq]
      _ = opField w ++ (argField w &&& BitVec.allOnes 32 <<< n) := by rw [BitVec.and_append, hop]
  rw [hand, hform.match_eq, append_eq_append_iff]
  rfl

theorem decode_encode (v : BitVec n) : decode (encode (c v)) = .ok (c v) := by
  have hwidth : 0 + n ≤ 32 := (Nat.zero_add n).trans_le hform.width_le
  have hfield : (v.setWidth 32).extractLsb' 0 n = v := by
    rw [BitVec.extractLsb'_setWidth_of_le hwidth, BitVec.extractLsb'_eq_self]
  have hclear : v.setWidth 32 &&& BitVec.allOnes 32 <<< n = 0 := by
    rw [and_reserved_eq_zero_iff, hfield]
  rw [decode_encode_fields, hform.opcode_eq, hform.argument_eq, hform.decode_eq, ifReservedClear,
    if_pos hclear, hfield]

variable {w : CommandWord}

/-- A word that matches a row is the encoding of the command it decodes to. -/
theorem decode_of_match (hmatch : w &&& (rowOf (c 0)).1 = (rowOf (c 0)).2) :
    ∃ i, decode w = .ok i ∧ encode i = w := by
  obtain ⟨hop, hclear⟩ := (hform.match_iff w).mp hmatch
  refine ⟨c ((argField w).extractLsb' 0 n), ?_, ?_⟩
  · rw [decode, hop, hform.decode_eq, ifReservedClear, if_pos hclear]
  · rw [encode, hform.opcode_eq, hform.argument_eq, (and_reserved_eq_zero_iff n _).mp hclear, ← hop,
      append_fields]

theorem decode_of_not_match (hop : opField w = opcode (c 0))
    (hmatch : w &&& (rowOf (c 0)).1 ≠ (rowOf (c 0)).2) : decode w = .error .reservedBits := by
  have hset : ¬ argField w &&& BitVec.allOnes 32 <<< n = 0 := fun hclear =>
    hmatch ((hform.match_iff w).mpr ⟨hop, hclear⟩)
  rw [decode, hop, hform.decode_eq, ifReservedClear, if_neg hset]

end RowForm

/-- Settles O2: the command is the value of a row's field, and the decoder takes that field from the
bottom of `arg`. -/
theorem decodeEncodeAgree : Obligations.DecodeEncodeAgree := by
  intro i
  obtain ⟨n, c, v, hform, rfl⟩ := exists_rowForm i
  exact hform.decode_encode v

/-! ### The three answers of the decoder, by the rows of the table (R76 to R78) -/

variable {w : CommandWord} {r : CommandWord × CommandWord}

/-- The opcodes of R75 are those of the table's rows. -/
theorem mem_definedOpcodes_iff {op : BitVec 8} :
    op ∈ definedOpcodes ↔ ∃ r ∈ tableRows, op = opByte r.2 := by
  have hops : definedOpcodes = tableRows.map fun r => opByte r.2 := by decide
  rw [hops, List.mem_map]
  simp only [eq_comm]

theorem decode_of_match (hr : r ∈ tableRows) (hmatch : w &&& r.1 = r.2) :
    ∃ i, decode w = .ok i ∧ encode i = w := by
  obtain ⟨n, c, hform, rfl⟩ := exists_rowForm_of_row hr
  exact hform.decode_of_match hmatch

/-- Check 2 of R76. -/
theorem decode_of_not_match (hr : r ∈ tableRows) (hop : opByte w = opByte r.2)
    (hmatch : w &&& r.1 ≠ r.2) : decode w = .error .reservedBits := by
  obtain ⟨n, c, hform, rfl⟩ := exists_rowForm_of_row hr
  exact hform.decode_of_not_match (hop.trans hform.opByte_match) hmatch

/-- Check 1 of R76. -/
theorem decode_of_undefined (hop : opByte w ∉ definedOpcodes) :
    decode w = .error .undefinedOpcode := by
  have hfields : ∀ op arg, op ∉ definedOpcodes → decodeFields op arg = .error .undefinedOpcode := by
    intro op arg hop
    unfold decodeFields
    split
    case h_19 => rfl
    all_goals exact absurd (by decide) hop
  exact hfields _ _ hop

/-- Each word is answered in one of three ways, and the table says in which. -/
theorem decode_cases (w : CommandWord) :
    (opByte w ∉ definedOpcodes ∧ decode w = .error .undefinedOpcode) ∨
    (∃ r ∈ tableRows, w &&& r.1 = r.2 ∧ ∃ i, decode w = .ok i ∧ encode i = w) ∨
    ∃ r ∈ tableRows, (opByte w = opByte r.2 ∧ w &&& r.1 ≠ r.2) ∧
      decode w = .error .reservedBits := by
  by_cases hdef : opByte w ∈ definedOpcodes
  · obtain ⟨r, hr, hop⟩ := mem_definedOpcodes_iff.mp hdef
    by_cases hmatch : w &&& r.1 = r.2
    · exact .inr (.inl ⟨r, hr, hmatch, decode_of_match hr hmatch⟩)
    · exact .inr (.inr ⟨r, hr, ⟨hop, hmatch⟩, decode_of_not_match hr hop hmatch⟩)
  · exact .inl ⟨hdef, decode_of_undefined hdef⟩

/-- Settles O3: only a word that matches a row decodes, and it is the encoding of its command. -/
theorem decodedWordIsItsEncoding : Obligations.DecodedWordIsItsEncoding := by
  intro w i hdec
  obtain ⟨-, hw⟩ | ⟨r, -, -, j, hw, henc⟩ | ⟨r, -, -, hw⟩ := decode_cases w
  · exact nomatch hdec.symm.trans hw
  · obtain rfl : i = j := Except.ok.inj (hdec.symm.trans hw)
    exact henc
  · exact nomatch hdec.symm.trans hw

/-- Settles O4: each of the decoder's three answers comes with what the table says of the word, and
the table's three cases determine the answer. -/
theorem decoderFollowsTheOpcodeTable : Obligations.DecoderFollowsTheOpcodeTable := by
  intro w
  refine ⟨⟨?_, ?_⟩, ⟨fun hdec => ?_, decode_of_undefined⟩, ⟨fun hdec => ?_, ?_⟩⟩
  · rintro ⟨i, hdec⟩
    obtain ⟨-, hw⟩ | ⟨r, hr, hmatch, -⟩ | ⟨r, -, -, hw⟩ := decode_cases w
    · exact nomatch hdec.symm.trans hw
    · exact ⟨r, hr, hmatch⟩
    · exact nomatch hdec.symm.trans hw
  · rintro ⟨r, hr, hmatch⟩
    obtain ⟨i, hdec, -⟩ := decode_of_match hr hmatch
    exact ⟨i, hdec⟩
  · obtain ⟨hdef, -⟩ | ⟨r, -, -, i, hw, -⟩ | ⟨r, -, -, hw⟩ := decode_cases w
    · exact hdef
    · exact nomatch hdec.symm.trans hw
    · exact nomatch hdec.symm.trans hw
  · obtain ⟨-, hw⟩ | ⟨r, -, -, i, hw, -⟩ | ⟨r, hr, hmiss, -⟩ := decode_cases w
    · exact nomatch hdec.symm.trans hw
    · exact nomatch hdec.symm.trans hw
    · exact ⟨r, hr, hmiss⟩
  · rintro ⟨r, hr, hop, hmatch⟩
    exact decode_of_not_match hr hop hmatch

/-- Settles O1, by running the decoder on each word. -/
theorem specWordsDecode : Obligations.SpecWordsDecode := by
  unfold Obligations.SpecWordsDecode
  decide

end Sys2Proof.Machine

/-! ## Every command word is answered once (R71, R77, R78) -/

namespace Sys2Proof.Machine

open Sys2Proof.Claims

/-- The outcome is a next state: the machine neither stops nor is left without a meaning. -/
def Answers (o : Host.Outcome State Fault Refusal) : Prop := ∃ t, o = .next t

section

variable {s : State}

theorem answers_respond {d : Word} : Answers (respond d s) := ⟨_, rfl⟩

theorem answers_raise {e : StatusCode} : Answers (raise e s) := ⟨_, rfl⟩

theorem answers_withAddr {addr : BitVec 7} {k : Fin 68 → Host.Outcome State Fault Refusal}
    (hk : ∀ a, Answers (k a)) : Answers (withAddr addr s k) := by
  unfold withAddr
  split
  · exact hk _
  · exact answers_raise

theorem answers_withIndex {idx : BitVec 10} {k : Fin 544 → Host.Outcome State Fault Refusal}
    (hk : ∀ p, Answers (k p)) : Answers (withIndex idx s k) := by
  unfold withIndex
  split
  · exact hk _
  · exact answers_raise

theorem answers_withTable {k : Vector Word 544 → Host.Outcome State Fault Refusal}
    (hk : ∀ tab, Answers (k tab)) : Answers (withTable s k) := by
  unfold withTable
  split
  · exact answers_raise
  · split
    · exact answers_raise
    · exact hk _

theorem answers_rdreg (reg : BitVec 4) : Answers (execRdreg reg s) := by
  unfold execRdreg
  split
  · exact answers_respond
  · exact answers_raise

theorem answers_build : Answers (execBuild s) := by
  unfold execBuild withoutTable
  split
  · exact answers_raise
  · split
    · exact answers_raise
    · rw [buildWith_poly]
      exact answers_respond

theorem answers_correct : Answers (execCorrect s) := by
  refine answers_withTable fun tab => ?_
  split
  · exact answers_respond
  · split
    · exact answers_respond
    · exact answers_respond

/-- Every command has a next state in every state (R321). -/
theorem answers_exec (i : Instr) (s : State) : Answers (exec i s) := by
  cases i with
  | rdreg reg => exact answers_rdreg reg
  | wrsig | rdsig =>
    simp only [exec, execWrsig, execRdsig]
    exact answers_withAddr fun _ => answers_respond
  | flipbit =>
    simp only [exec, execFlipbit]
    exact answers_withIndex fun _ => answers_respond
  | rdtab | rdsorts | rdsortp =>
    simp only [exec, execRdtab, execRdsorts, execRdsortp]
    exact answers_withIndex fun _ => answers_withTable fun _ => answers_respond
  | find =>
    simp only [exec, execFind]
    exact answers_withTable fun _ => answers_respond
  | build => exact answers_build
  | correct => exact answers_correct
  | nop | srst | clrcrc | ldcrc | passbit | passbyte | embed | check => exact answers_respond

end

/-- `t` follows `s` with one response more, whose data is 0 unless it is `OK`, and with nothing more
taken from the port (R71). -/
def RespondsOnce (s t : State) : Prop :=
  ∃ r, t.responses = s.responses ++ [r] ∧ t.inputs = s.inputs ∧ (r.st ≠ .ok → r.data = 0)

/-- An answer is the one response, whatever the command has written to the block before it. -/
theorem respondsOnce_answer {s u : State} {r : Response} (hresp : u.responses = s.responses)
    (hinputs : u.inputs = s.inputs) (hdata : r.st ≠ .ok → r.data = 0) :
    RespondsOnce s (u.answer r) :=
  ⟨r, congrArg (· ++ [r]) hresp, hinputs, hdata⟩

/-! In the proofs by `CommandEffect` below `simp` may not leave an equation of fields to `rfl`: the
kernel would run the divider over all of `SIG` to compare a field after CHECK or EMBED with the one
before. -/

theorem CommandEffect.respondsOnce {s t : State} {i : Instr} (h : CommandEffect s i t) :
    RespondsOnce s t := by
  cases h with
  | refused e => exact respondsOnce_answer rfl rfl fun _ => rfl
  | read | srst | clrcrc | ldcrc | passbit | passbyte | wrsig | flipbit | embed | check | build
  | notCorrected | corrected =>
    exact respondsOnce_answer (by simp -implicitDefEqProofs) (by simp -implicitDefEqProofs)
      fun hne => absurd rfl hne

section

variable {s : State} {w : CommandWord} {rest : List PortInput}

/-- The step on a word that is no command: the refusal of R272 with the code of the failed check. -/
theorem step_of_decode_error {e : DecodeError} (hin : s.inputs = .command w :: rest)
    (hdec : decode w = .error e) : step s = refuseWord e { s with inputs := rest } := by
  simp only [step, takeInput_of_inputs_command hin, hdec]

/-- A presented word is executed or refused, and answered once either way (R71, R76). -/
theorem step_respondsOnce (hin : s.inputs = .command w :: rest) :
    ∃ t, step s = .next t ∧ RespondsOnce { s with inputs := rest } t := by
  match hdec : decode w with
  | .ok i =>
    obtain ⟨t, ht⟩ := answers_exec i { s with inputs := rest }
    have hstep : step s = .next t := (stepRunsTheDecodedCommand s w rest i hin hdec).trans ht
    exact ⟨t, hstep, (exec_effect ht).respondsOnce⟩
  | .error e =>
    exact ⟨_, step_of_decode_error hin hdec, respondsOnce_answer rfl rfl fun _ => rfl⟩

end

/-- Settles O6: a word outside the eighteen opcodes stops at check 1, NOP's word is its encoding,
and every presented word is answered. -/
theorem undefinedOpcodeRefused : Obligations.UndefinedOpcodeRefused := by
  refine ⟨fun s w rest hin hop => ?_, fun w hdec => ?_, fun s w rest hin => ?_⟩
  · rw [step_of_decode_error hin (decode_of_undefined hop)]
    rfl
  · calc w = encode .nop := (decodedWordIsItsEncoding w .nop hdec).symm
      _ = 0 := by decide
  · obtain ⟨t, hstep, -⟩ := step_respondsOnce hin
    exact ⟨t, hstep⟩

/-- Settles O7: a word with a defined opcode that misses its row stops at check 2. -/
theorem reservedBitRefused : Obligations.ReservedBitRefused := by
  refine ⟨fun s w rest mask pattern hin hr hop hmiss => ?_, by decide, by decide⟩
  rw [step_of_decode_error hin (decode_of_not_match hr hop hmiss)]
  rfl

/-- Settles O12: the step responds once, and the response word is the status beside the data. -/
theorem oneResponsePerCommand : Obligations.OneResponsePerCommand := by
  refine ⟨fun s w rest hin => ?_, fun r => ⟨?_, ?_⟩, rfl⟩
  · obtain ⟨t, hstep, r, hr⟩ := step_respondsOnce hin
    exact ⟨t, r, hstep, hr⟩
  · exact BitVec.extractLsb'_append_eq_left
  · exact BitVec.extractLsb'_append_eq_right

end Sys2Proof.Machine

/-! ## The frame of every command (R82) -/

namespace Sys2Proof.Machine

open Sys2Proof.Claims

/-- The checksum's store changes the bytes 64 to 67 only (R142). -/
theorem read_writeChecksum_of_outside {m : Memory} (hm : m.wf = true) (c : Word) {a : Nat}
    (ha : ¬ (64 ≤ a ∧ a ≤ 67)) : (writeChecksum m c).read a = m.read a := by
  have hne : a ≠ 64 ∧ a ≠ 65 ∧ a ≠ 66 ∧ a ≠ 67 := by omega
  have h64 {v} : (m.write 64 v).wf = true := wf_write hm (by decide)
  have h65 {v v'} : ((m.write 64 v).write 65 v').wf = true := wf_write h64 (by decide)
  have h66 {v v' v''} : (((m.write 64 v).write 65 v').write 66 v'').wf = true :=
    wf_write h65 (by decide)
  simp [writeChecksum, read_write, hm, h64, h65, h66, hne]

namespace CommandEffect

variable {s t : State} {i : Instr} (h : CommandEffect s i t)
include h

theorem crc_frame : t.crc = s.crc ∨ writesCrc i := by
  cases h with
  | refused | read | wrsig | flipbit | notCorrected | corrected => exact .inl rfl
  | srst | clrcrc | ldcrc | passbit | passbyte | embed | check | build =>
    exact .inr (by simp [writesCrc])

/-- `SYND`, `POS` and `FIX` are written together (R23, R24, R26). -/
theorem attempt_frame : (t.synd = s.synd ∧ t.pos = s.pos ∧ t.fix = s.fix) ∨
    i = .srst ∨ i = .check ∨ i = .correct := by
  cases h with
  | srst => exact .inr (.inl rfl)
  | check => exact .inr (.inr (.inl rfl))
  | notCorrected | corrected => exact .inr (.inr (.inr rfl))
  | refused | read | clrcrc | ldcrc | passbit | passbyte | wrsig | flipbit | embed | build =>
    exact .inl (by simp -implicitDefEqProofs)

/-- The table, `TV` and `CE` are BUILD's and SRST's (R26, R31). -/
theorem table_frame : (t.tv = s.tv ∧ t.tab = s.tab ∧ t.ce = s.ce) ∨ i = .srst ∨ i = .build := by
  cases h with
  | srst => exact .inr (.inl rfl)
  | build => exact .inr (.inr rfl)
  | refused | read | clrcrc | ldcrc | passbit | passbyte | wrsig | flipbit | embed | check
  | notCorrected | corrected => exact .inl (by simp -implicitDefEqProofs)

/-- The error record is written by SRST and by a refusal (R272). -/
theorem error_frame : (t.err = s.err ∧ t.ecode = s.ecode) ∨
    i = .srst ∨ ∃ r, t.responses = s.responses ++ [r] ∧ r.st ≠ .ok := by
  cases h with
  | srst => exact .inr (.inl rfl)
  | refused e hne => exact .inr (.inr ⟨⟨e, 0⟩, rfl, hne⟩)
  | read | clrcrc | ldcrc | passbit | passbyte | wrsig | flipbit | embed | check | build
  | notCorrected | corrected => exact .inl (by simp -implicitDefEqProofs)

/-- A byte of `SIG` changes only where the command stores (R123, R125, R148, R200, R221). -/
theorem sig_frame (hwf : s.sig.wf = true) (a : Nat) : t.sig.read a = s.sig.read a ∨
    i = .srst ∨ (∃ addr v, i = .wrsig addr v ∧ a = addr.toNat) ∨
    (∃ idx, i = .flipbit idx ∧ a = byteidx idx.toNat) ∨ (i = .embed ∧ 64 ≤ a ∧ a ≤ 67) ∨
    (i = .correct ∧ a = byteidx (findBit s.table s.synd).toNat) := by
  cases h with
  | srst => exact .inr (.inl rfl)
  | @wrsig addr v =>
    by_cases ha : a = addr.toNat
    · exact .inr (.inr (.inl ⟨addr, v, rfl, ha⟩))
    · exact .inl ((read_write hwf _ a v).trans (if_neg ha))
  | @flipbit idx =>
    by_cases ha : a = byteidx idx.toNat
    · exact .inr (.inr (.inr (.inl ⟨idx, rfl, ha⟩)))
    · exact .inl ((read_flip hwf _ a).trans (if_neg ha))
  | embed =>
    by_cases ha : 64 ≤ a ∧ a ≤ 67
    · exact .inr (.inr (.inr (.inr (.inl ⟨rfl, ha⟩))))
    · exact .inl (read_writeChecksum_of_outside hwf _ ha)
  | corrected =>
    by_cases ha : a = byteidx (findBit s.table s.synd).toNat
    · exact .inr (.inr (.inr (.inr (.inr ⟨rfl, ha⟩))))
    · exact .inl ((read_flip hwf _ a).trans (if_neg ha))
  | refused | read | clrcrc | ldcrc | passbit | passbyte | check | build | notCorrected =>
    exact .inl (by simp -implicitDefEqProofs)

end CommandEffect

/-- Settles O19: the frames of `CRC`, the attempt, the table, the error record and `SIG`, put
together. -/
theorem onlyTheNamedCommandsWrite : Obligations.OnlyTheNamedCommandsWrite := by
  intro i s t hwf h
  have heff := exec_effect h
  have hattempt := heff.attempt_frame
  have htable := heff.table_frame
  obtain ⟨-, -, hinputs, -⟩ := heff.respondsOnce
  refine ⟨heff.crc_frame.resolve_left,
    fun hne => hattempt.resolve_left fun ⟨hsynd, _, _⟩ => hne hsynd,
    fun hne => hattempt.resolve_left fun ⟨_, hpos, _⟩ => hne hpos,
    fun hne => hattempt.resolve_left fun ⟨_, _, hfix⟩ => hne hfix,
    fun hne => htable.resolve_left fun ⟨htv, _, _⟩ => hne htv,
    fun hne => htable.resolve_left fun ⟨_, htab, _⟩ => hne htab,
    fun hne => htable.resolve_left fun ⟨_, _, hce⟩ => hne hce,
    fun hne => heff.error_frame.resolve_left fun ⟨herr, hcode⟩ =>
      hne.elim (absurd herr) (absurd hcode),
    hinputs, fun a => (heff.sig_frame hwf a).resolve_left⟩

end Sys2Proof.Machine

/-! ## One step of the divider, bit by bit (R100, R107, R109) -/

namespace Sys2Proof.Machine

/-- The shifted word of R100 is the library's shift with a bit entering at bit 0. -/
theorem shift_or_eq_shiftConcat (s : Word) (b : Bool) :
    s <<< 1 ||| (BitVec.ofBool b).setWidth 32 = s.shiftConcat b := by
  ext i hi
  cases i with
  | zero => simp
  | succ i => simp

theorem passBitWith_eq (g s : Word) (b : Bool) :
    passBitWith g s b = reduceWith g (s.shiftConcat b) :=
  congrArg (reduceWith g) (shift_or_eq_shiftConcat s b)

/-- The conditional xor of R100, bit by bit. -/
theorem reduceWith_getLsbD (g t : Word) (i : Nat) :
    (reduceWith g t).getLsbD i = (t.getLsbD i ^^ (t.getLsbD 31 && g.getLsbD i)) := by
  rw [reduceWith]
  cases t.getLsbD 31 with
  | false => rw [if_neg Bool.false_ne_true, Bool.false_and, Bool.xor_false]
  | true => rw [if_pos rfl, BitVec.getLsbD_xor, Bool.true_and]

theorem passBitWith_getLsbD_zero (g s : Word) (b : Bool) :
    (passBitWith g s b).getLsbD 0 = (b ^^ (s.getLsbD 30 && g.getLsbD 0)) := by
  rw [passBitWith_eq, reduceWith_getLsbD]
  simp only [BitVec.getLsbD_shiftConcat]
  rfl

theorem passBitWith_getLsbD_succ (g s : Word) (b : Bool) {i : Nat} (hi : i < 31) :
    (passBitWith g s b).getLsbD (i + 1) = (s.getLsbD i ^^ (s.getLsbD 30 && g.getLsbD (i + 1))) := by
  rw [passBitWith_eq, reduceWith_getLsbD]
  simp only [BitVec.getLsbD_shiftConcat, Nat.succ_lt_succ hi, Nat.succ_ne_zero, Nat.add_sub_cancel]
  rfl

/-- The feedback taps: the terms of the generator from x to x^30 (R102, R109). -/
theorem poly_getLsbD_eq_true_iff {i : Nat} (hlo : 1 ≤ i) (hhi : i ≤ 30) :
    Config.poly.getLsbD i = true ↔ i ∈ [1, 2, 4, 10, 13, 16, 18, 21, 22, 23, 24, 30] := by
  have hall : ∀ k : Fin 31, 1 ≤ k.val → (Config.poly.getLsbD k.val = true ↔
      k.val ∈ [1, 2, 4, 10, 13, 16, 18, 21, 22, 23, 24, 30]) := by decide
  exact hall ⟨i, by omega⟩ hlo

/-- Settles O28: the bits of one step, with the generator's terms as the taps. -/
theorem passBitShiftRegisterForm : Obligations.PassBitShiftRegisterForm := by
  intro s b
  refine ⟨passBit_top s b, ?_, fun i hlo hhi => ?_⟩
  · have hpoly : Config.poly.getLsbD 0 = true := by decide
    rw [passBit, passBitWith_getLsbD_zero, hpoly, Bool.and_true]
  · obtain ⟨k, rfl⟩ : ∃ k, i = k + 1 := ⟨i - 1, by omega⟩
    rw [passBit, passBitWith_getLsbD_succ _ _ _ (by omega), Nat.add_sub_cancel]
    split
    case isTrue htap => rw [(poly_getLsbD_eq_true_iff hlo hhi).mpr htap, Bool.and_true]
    case isFalse htap =>
      rw [Bool.eq_false_iff.mpr (mt (poly_getLsbD_eq_true_iff hlo hhi).mp htap), Bool.and_false,
        Bool.xor_false]

/-- Shifting a word and letting a bit enter is arithmetic: double modulo 2^32, add the bit (R100). -/
theorem shiftConcat_toNat (s : Word) (b : Bool) :
    (s.shiftConcat b).toNat = (2 * s.toNat) % 2 ^ 32 + b.toNat := by
  have hb : b.toNat ≤ 1 := Bool.toNat_le b
  rw [BitVec.toNat_shiftConcat, Nat.shiftLeft_eq]
  omega

/-- The reduction tests whether the word reaches 2^31 (R100). -/
theorem reduceWith_toNat (g t : Word) : (reduceWith g t).toNat =
    if 2 ^ 31 ≤ t.toNat then t.toNat ^^^ g.toNat else t.toNat := by
  have htop : t.getLsbD 31 = decide (2 ^ 31 ≤ t.toNat) := BitVec.getLsbD_last t
  rw [reduceWith, htop]
  simp only [decide_eq_true_eq]
  split
  · exact BitVec.toNat_xor t g
  · rfl

/-- Settles O27: the shift and the reduction of one step, each read as arithmetic. -/
theorem passbitDividesOneStep : Obligations.PassbitDividesOneStep := by
  intro s b
  refine ⟨passBit s.crc b, rfl, ?_⟩
  rw [passBit, passBitWith_eq, reduceWith_toNat, shiftConcat_toNat]
  rfl

/-- Settles O26: both commands write `CRC` and respond. -/
theorem clrcrcAndLdcrcLoadCrc : Obligations.ClrcrcAndLdcrcLoadCrc :=
  fun _ => ⟨rfl, fun _ => rfl⟩

/-- Settles O29: the fold over the eight bits, written out. -/
theorem passbyteIsEightPassbits : Obligations.PassbyteIsEightPassbits :=
  ⟨fun _ _ => rfl, fun _ _ => rfl⟩

end Sys2Proof.Machine

/-! ## The divider is linear over GF(2) (R104) -/

namespace Sys2Proof.Machine

theorem shiftConcat_xor (s t : Word) (b c : Bool) :
    (s ^^^ t).shiftConcat (b ^^ c) = s.shiftConcat b ^^^ t.shiftConcat c := by
  ext i hi
  cases i with
  | zero => simp
  | succ i => simp

theorem reduceWith_xor (g t u : Word) :
    reduceWith g (t ^^^ u) = reduceWith g t ^^^ reduceWith g u := by
  apply BitVec.eq_of_getLsbD_eq
  intro i _
  simp only [BitVec.getLsbD_xor, reduceWith_getLsbD, Bool.and_xor_distrib_right]
  grind

theorem passBitWith_xor (g s t : Word) (b c : Bool) :
    passBitWith g (s ^^^ t) (b ^^ c) = passBitWith g s b ^^^ passBitWith g t c := by
  simp only [passBitWith_eq, shiftConcat_xor, reduceWith_xor]

@[simp] theorem passBitsWith_cons (g s : Word) (b : Bool) (l : List Bool) :
    passBitsWith g s (b :: l) = passBitsWith g (passBitWith g s b) l := rfl

theorem passBitsWith_zipWith_xor (g : Word) {l m : List Bool} (hlen : l.length = m.length)
    (s t : Word) : passBitsWith g (s ^^^ t) (List.zipWith (· ^^ ·) l m) =
      passBitsWith g s l ^^^ passBitsWith g t m := by
  induction l generalizing m s t with
  | nil =>
    obtain rfl : m = [] := List.length_eq_zero_iff.mp hlen.symm
    rfl
  | cons b l ih =>
    cases m with
    | nil => exact absurd hlen (Nat.succ_ne_zero _)
    | cons c m =>
      rw [List.zipWith_cons_cons, passBitsWith_cons, passBitWith_xor, ih (Nat.succ.inj hlen)]
      rfl

theorem passBitsWith_zeros (g : Word) (n : Nat) :
    passBitsWith g 0 (List.replicate n false) = 0 := by
  induction n with
  | zero => rfl
  | succ n ih => rw [List.replicate_succ, passBitsWith_cons, passBitWith_zero_false, ih]

/-- The state and the stream contribute separately. -/
theorem passBitsWith_eq_xor (g s : Word) (l : List Bool) : passBitsWith g s l =
    passBitsWith g s (List.replicate l.length false) ^^^ passBitsWith g 0 l := by
  have hxor : List.zipWith (· ^^ ·) (List.replicate l.length false) l = l := by
    apply List.ext_getElem <;> simp
  have hstate : s ^^^ 0 = s := BitVec.xor_zero
  calc passBitsWith g s l
      = passBitsWith g (s ^^^ 0) (List.zipWith (· ^^ ·) (List.replicate l.length false) l) := by
        rw [hxor, hstate]
    _ = _ := passBitsWith_zipWith_xor g List.length_replicate s 0

/-- The stream of `n` bits whose bit `k` alone is set. -/
def loneBit (n k : Nat) : List Bool :=
  List.replicate k false ++ true :: List.replicate (n - k - 1) false

/-- A leading zero leaves the zero state zero. -/
theorem passBitsWith_loneBit_succ (g : Word) (n k : Nat) :
    passBitsWith g 0 (loneBit (n + 1) (k + 1)) = passBitsWith g 0 (loneBit n k) := by
  rw [loneBit, List.replicate_succ, List.cons_append, passBitsWith_cons, passBitWith_zero_false,
    Nat.add_sub_add_right]
  rfl

/-- The xor of the words `f 0` to `f (n - 1)`. -/
def xorOfRange (n : Nat) (f : Nat → Word) : Word := (List.range n).foldl (fun x k => x ^^^ f k) 0

theorem xorOfRange_succ (n : Nat) (f : Nat → Word) :
    xorOfRange (n + 1) f = f 0 ^^^ xorOfRange n fun k => f (k + 1) := by
  have hmap : ∀ n f, xorOfRange n f = ((List.range n).map f).foldl (· ^^^ ·) 0 :=
    fun _ _ => List.foldl_map.symm
  have hcomm : 0 ^^^ f 0 = f 0 ^^^ 0 := BitVec.xor_comm 0 (f 0)
  rw [hmap, hmap, List.range_succ_eq_map, List.map_cons, List.foldl_cons, List.map_map, hcomm]
  exact List.foldl_assoc

/-- What bit `k` of a stream contributes to its residue. -/
def bitResidue (g : Word) (l : List Bool) (k : Nat) : Word :=
  if l.getD k false then passBitsWith g 0 (loneBit l.length k) else 0

theorem bitResidue_cons_zero (g : Word) (b : Bool) (l : List Bool) : bitResidue g (b :: l) 0 =
    passBitsWith g (passBitWith g 0 b) (List.replicate l.length false) := by
  cases b with
  | false => rw [passBitWith_zero_false, passBitsWith_zeros]; rfl
  | true => rfl

theorem bitResidue_cons_succ (g : Word) (b : Bool) (l : List Bool) (k : Nat) :
    bitResidue g (b :: l) (k + 1) = bitResidue g l k := by
  simp only [bitResidue, List.getD_cons_succ, List.length_cons, passBitsWith_loneBit_succ]

/-- The residue of a stream is the xor of the residues of its set bits (R104): its first bit's, by
linearity, and those of the rest. -/
theorem passBitsWith_eq_xorOfRange (g : Word) (l : List Bool) :
    passBitsWith g 0 l = xorOfRange l.length (bitResidue g l) := by
  induction l with
  | nil => rfl
  | cons b l ih =>
    calc passBitsWith g 0 (b :: l)
        = passBitsWith g (passBitWith g 0 b) (List.replicate l.length false) ^^^
            passBitsWith g 0 l := passBitsWith_eq_xor g (passBitWith g 0 b) l
      _ = bitResidue g (b :: l) 0 ^^^ xorOfRange l.length (bitResidue g l) := by
          rw [bitResidue_cons_zero, ih]
      _ = xorOfRange (b :: l).length (bitResidue g (b :: l)) := by
          rw [List.length_cons, xorOfRange_succ]
          simp only [bitResidue_cons_succ]

/-- Settles O30: linearity of one step, of a stream, and the residue bit by bit, all for the block's
generator. -/
theorem passBitIsLinear : Obligations.PassBitIsLinear :=
  ⟨passBitWith_xor Config.poly, passBitWith_zero_false Config.poly,
    fun _ _ s1 s2 hlen => passBitsWith_zipWith_xor Config.poly hlen s1 s2,
    passBitsWith_zeros Config.poly, passBitsWith_eq_xorOfRange Config.poly⟩

end Sys2Proof.Machine

/-! ## The divider is polynomial division over GF(2) (R102, R103) -/

namespace Sys2Proof.Machine

open Sys2Proof.Claims Polynomial

/-- The polynomial a word is read as: the one that represents it (R102). -/
noncomputable def wordPoly (w : Word) : (ZMod 2)[X] :=
  ∑ i ∈ Finset.range 32, if w.getLsbD i then X ^ i else 0

theorem represents_iff {w : Word} {f : (ZMod 2)[X]} : Represents w f ↔ f = wordPoly w := Iff.rfl

@[simp] theorem wordPoly_coeff (w : Word) (i : Nat) :
    (wordPoly w).coeff i = if w.getLsbD i then 1 else 0 := by
  have hterm : ∀ j, (if w.getLsbD j then X ^ j else 0 : (ZMod 2)[X]).coeff i =
      if i = j then (if w.getLsbD i then 1 else 0) else 0 := by
    intro j
    by_cases hij : i = j
    · subst hij; split <;> simp
    · split <;> simp [coeff_X_pow, hij]
  rw [wordPoly, finsetSum_coeff, Finset.sum_congr rfl fun j _ => hterm j, Finset.sum_ite_eq]
  by_cases hi : i < 32
  · rw [if_pos (Finset.mem_range.mpr hi)]
  · rw [if_neg (mt Finset.mem_range.mp hi), BitVec.getLsbD_of_ge w i (by omega)]
    rfl

/-- Xor of words is addition of polynomials over GF(2) (R103). -/
theorem wordPoly_xor (v w : Word) : wordPoly (v ^^^ w) = wordPoly v + wordPoly w := by
  ext i
  rw [coeff_add, wordPoly_coeff, wordPoly_coeff, wordPoly_coeff, BitVec.getLsbD_xor]
  cases v.getLsbD i <;> cases w.getLsbD i <;> decide

theorem getLsbD_of_top_clear {w : Word} (hw : w.getLsbD 31 = false) {i : Nat} (hi : 31 ≤ i) :
    w.getLsbD i = false := by
  rcases hi.eq_or_lt with rfl | hlt
  · exact hw
  · exact BitVec.getLsbD_of_ge w i hlt

/-- The shift with a bit entering is multiplication by x and addition of the bit; no term is lost
when bit 31 is clear (R103). -/
theorem wordPoly_shiftConcat {s : Word} (hs : s.getLsbD 31 = false) (b : Bool) :
    wordPoly (s.shiftConcat b) = wordPoly s * X + if b then 1 else 0 := by
  ext i
  cases i with
  | zero => cases b <;> simp
  | succ i =>
    have hb : (if b then 1 else 0 : (ZMod 2)[X]).coeff (i + 1) = 0 := by
      cases b <;> simp [coeff_one]
    have hbit : (s.shiftConcat b).getLsbD (i + 1) = s.getLsbD i := by
      rw [BitVec.getLsbD_shiftConcat, if_neg (Nat.succ_ne_zero i), Nat.add_sub_cancel]
      by_cases hi : i + 1 < 32
      · rw [decide_eq_true hi, Bool.true_and]
      · rw [getLsbD_of_top_clear hs (by omega), Bool.and_false]
    rw [coeff_add, coeff_mul_X, hb, add_zero, wordPoly_coeff, wordPoly_coeff, hbit]

theorem wordPoly_degree_lt {w : Word} (hw : w.getLsbD 31 = false) : (wordPoly w).degree < 31 := by
  refine (degree_lt_iff_coeff_zero _ 31).mpr fun i hi => ?_
  rw [wordPoly_coeff, getLsbD_of_top_clear hw hi]
  rfl

section
variable {g : Word} (hg : g.getLsbD 31 = true)
include hg

theorem wordPoly_degree : (wordPoly g).degree = 31 := by
  refine degree_eq_of_le_of_coeff_ne_zero ?_ (by rw [wordPoly_coeff, hg]; decide)
  refine (degree_le_iff_coeff_zero _ 31).mpr fun i hi => ?_
  rw [wordPoly_coeff, BitVec.getLsbD_of_ge g i (Nat.cast_lt.mp hi)]
  rfl

theorem wordPoly_monic : (wordPoly g).Monic :=
  monic_of_degree_le 31 (wordPoly_degree hg).le (by rw [wordPoly_coeff, hg]; rfl)

/-- One conditional xor leaves the remainder by a generator of degree 31 (R103). -/
theorem wordPoly_reduceWith (t : Word) : wordPoly (reduceWith g t) = wordPoly t %ₘ wordPoly g := by
  have hdeg : ∀ {w : Word}, w.getLsbD 31 = false → (wordPoly w).degree < (wordPoly g).degree :=
    fun hw => (wordPoly_degree_lt hw).trans_eq (wordPoly_degree hg).symm
  cases ht : t.getLsbD 31 with
  | false =>
    rw [reduceWith, if_neg (Bool.eq_false_iff.mp ht)]
    exact ((modByMonic_eq_self_iff (wordPoly_monic hg)).mpr (hdeg ht)).symm
  | true =>
    have htop : (t ^^^ g).getLsbD 31 = false := by rw [BitVec.getLsbD_xor, ht, hg]; rfl
    have hsum : wordPoly (t ^^^ g) + wordPoly g * 1 = wordPoly t := by
      rw [mul_one, ← wordPoly_xor, BitVec.xor_assoc, BitVec.xor_self, BitVec.xor_zero]
    rw [reduceWith, if_pos ht]
    exact (div_modByMonic_unique 1 _ (wordPoly_monic hg) ⟨hsum, hdeg htop⟩).2.symm

theorem wordPoly_passBitWith {s : Word} (hs : s.getLsbD 31 = false) (b : Bool) :
    wordPoly (passBitWith g s b) = (wordPoly s * X + if b then 1 else 0) %ₘ wordPoly g := by
  rw [passBitWith_eq, wordPoly_reduceWith hg, wordPoly_shiftConcat hs]

end

/-- Settles O31: the step of a divider whose generator has degree 31, read as polynomials. -/
theorem passBitIsDivisionByTheGenerator : Obligations.PassBitIsDivisionByTheGenerator := by
  intro s b S G R hs hS hG hR
  have hpoly : Config.poly.getLsbD 31 = true := by decide
  rw [represents_iff.mp hS, represents_iff.mp hG, represents_iff.mp hR]
  exact wordPoly_passBitWith hpoly hs b

end Sys2Proof.Machine

/-! ## The signature buffer and its bits (R120, R121, R123 to R125) -/

namespace Sys2Proof.Machine

/-- What a flip of position `p` xors into the byte at address `a`: its mask, or nothing (R121). -/
def flipMask (p a : Nat) : Byte := if a = byteidx p then bytemask p else 0

@[simp] theorem flipMask_byteidx (p : Nat) : flipMask p (byteidx p) = bytemask p := if_pos rfl

theorem flipMask_of_ne {p a : Nat} (ha : a ≠ byteidx p) : flipMask p a = 0 := if_neg ha

/-- The mask of `p`, over all addresses, has the bit of position `p` set and no other. -/
theorem flipMask_getLsbD (p q : Nat) :
    (flipMask p (byteidx q)).getLsbD (bitidx q) = decide (q = p) := by
  by_cases hbyte : byteidx q = byteidx p
  · have hpos : q % 8 = p % 8 ↔ q = p := by rw [byteidx_eq, byteidx_eq] at hbyte; omega
    rw [hbyte, flipMask_byteidx, bytemask_getLsbD_bitidx, decide_eq_decide.mpr hpos]
  · have hne : q ≠ p := fun h => hbyte (congrArg byteidx h)
    rw [flipMask_of_ne hbyte, decide_eq_false hne, BitVec.ofNat_eq_ofNat, BitVec.getLsbD_zero]

section
variable {m : Memory} (hm : m.wf = true)
include hm

theorem read_flip_eq_xor (p a : Nat) : (m.flip p).read a = m.read a ^^^ flipMask p a := by
  rw [read_flip hm]
  by_cases ha : a = byteidx p
  · rw [if_pos ha, ha, flipMask_byteidx]
  · rw [if_neg ha, flipMask_of_ne ha]; exact BitVec.xor_zero.symm

theorem read_flip_same (p : Nat) :
    (m.flip p).read (p / 8) = m.read (p / 8) ^^^ ((0x80 : Byte) >>> (p % 8)) := by
  rw [read_flip_eq_xor hm, ← byteidx_eq, flipMask_byteidx, bytemask_eq]

theorem read_flip_of_ne {p a : Nat} (ha : a ≠ p / 8) : (m.flip p).read a = m.read a := by
  rw [read_flip hm, byteidx_eq, if_neg ha]

theorem getbit_flip (p q : Nat) : (m.flip p).getbit q = (m.getbit q ^^ decide (q = p)) := by
  rw [Memory.getbit, read_flip_eq_xor hm, BitVec.getLsbD_xor, flipMask_getLsbD, Memory.getbit]

/-- `flip` is an involution (R121): the two masks cancel. -/
theorem flip_flip {p : Nat} (hp : p < 544) : (m.flip p).flip p = m := by
  refine eq_of_read (wf_flip (wf_flip hm hp) hp) hm fun a => ?_
  rw [read_flip_eq_xor (wf_flip hm hp), read_flip_eq_xor hm, BitVec.xor_assoc, BitVec.xor_self,
    BitVec.xor_zero]

theorem flip_comm {p q : Nat} (hp : p < 544) (hq : q < 544) :
    (m.flip p).flip q = (m.flip q).flip p := by
  have hmp := wf_flip hm hp
  have hmq := wf_flip hm hq
  refine eq_of_read (wf_flip hmp hq) (wf_flip hmq hp) fun a => ?_
  calc ((m.flip p).flip q).read a
      = m.read a ^^^ flipMask p a ^^^ flipMask q a := by
        rw [read_flip_eq_xor hmp, read_flip_eq_xor hm]
    _ = m.read a ^^^ flipMask q a ^^^ flipMask p a := by
        rw [BitVec.xor_assoc, BitVec.xor_comm (flipMask p a), BitVec.xor_assoc]
    _ = ((m.flip q).flip p).read a := by rw [read_flip_eq_xor hmq, read_flip_eq_xor hm]

end

/-- Settles O35: a flip xors one mask into one byte, and xor is commutative and its own inverse. -/
theorem flipIsAnInvolution : Obligations.FlipIsAnInvolution :=
  fun _ p _ hm hp hq =>
    ⟨read_flip_same hm p, fun _ ha => read_flip_of_ne hm ha, flip_flip hm hp, flip_comm hm hp hq⟩

/-- Settles O32: the legal address is admitted, and the write is read back. -/
theorem wrsigStoresOneByte : Obligations.WrsigStoresOneByte := by
  intro s addr v hm haddr
  refine ⟨s.sig.write addr.toNat v, ?_, ?_, fun a ha => ?_, wf_write hm haddr⟩
  · rw [exec, execWrsig, withAddr_legal haddr]; rfl
  · rw [read_write hm, if_pos rfl]
  · rw [read_write hm, if_neg ha]

/-- Settles O33: the legal address is admitted, and its byte is the answer. -/
theorem rdsigReadsOneByte : Obligations.RdsigReadsOneByte := by
  intro s addr haddr
  rw [exec, execRdsig, withAddr_legal haddr]; rfl

/-- Settles O34: the legal position is admitted, and the new buffer is the flipped one. -/
theorem flipbitInvertsOneBit : Obligations.FlipbitInvertsOneBit := by
  intro s idx hm hidx
  refine ⟨s.sig.flip idx.toNat, ?_, read_flip_same hm _, fun a ha => read_flip_of_ne hm ha, ?_,
    fun q hq => ?_, wf_flip hm hidx⟩
  · rw [exec, execFlipbit, withIndex_legal hidx, ← byteidx_eq]; rfl
  · rw [getbit_flip hm, decide_eq_true rfl, Bool.xor_true]
  · rw [getbit_flip hm, decide_eq_false hq, Bool.xor_false]

end Sys2Proof.Machine

/-! ## The codec as bit streams through the divider (R140, R141, R143) -/

namespace Sys2Proof.Machine

open Sys2Proof.Claims

/-- The bits of the signature positions 0 to `n - 1`, in the order they enter the divider. -/
def positionBits (m : Memory) (n : Nat) : List Bool := (List.range n).map m.getbit

theorem passBitsWith_append (g s : Word) (l l' : List Bool) :
    passBitsWith g s (l ++ l') = passBitsWith g (passBitsWith g s l) l' :=
  List.foldl_append

/-- The residue of the first positions, as the claims state it, is that of their bit stream. -/
theorem residueOfPositions_eq (m : Memory) (n : Nat) :
    residueOfPositions m n = passBitsWith Config.poly 0 (positionBits m n) :=
  List.foldl_map.symm

theorem checkFnWith_eq (g : Word) (m : Memory) :
    checkFnWith g m = passBitsWith g 0 (positionBits m 544) := by
  rw [checkFnWith, passBytesWith_eq_foldl_getbit]
  exact List.foldl_map.symm

/-- The checksum is the residue of the payload followed by 31 zero bits (R141). -/
theorem checksumWith_eq (g : Word) (m : Memory) : checksumWith g m =
    passBitsWith g 0 (positionBits m 513 ++ List.replicate 31 false) := by
  have hbytes : passBytesWith g m 64 = passBitsWith g 0 (positionBits m 512) := by
    rw [passBytesWith_eq_foldl_getbit]
    exact List.foldl_map.symm
  have hpayload : positionBits m 513 = positionBits m 512 ++ [(m.read 64).getLsbD 7] := by
    rw [positionBits, List.range_succ, List.map_append]
    rfl
  rw [checksumWith, hbytes, hpayload, passBitsWith_append, passBitsWith_append]
  rfl

theorem checkFn_eq_residueOfPositions (m : Memory) : checkFn m = residueOfPositions m 544 := by
  rw [checkFn, checkFnWith_eq, residueOfPositions_eq]

/-- Settles O38: CHECK writes `CheckFn`, which is the residue of the 544 positions. -/
theorem checkTakesTheResidue : Obligations.CheckTakesTheResidue := by
  intro s
  rw [← checkFn_eq_residueOfPositions]
  rfl

end Sys2Proof.Machine

/-! ## The buffer EMBED leaves (R140, R142, R147, R148) -/

namespace Sys2Proof.Machine

open Sys2Proof.Claims

/-- `SIG` has no byte beyond address 67 (R30). -/
theorem read_above_of_wfFrom {lo a : Nat} (ha : 68 ≤ a) :
    ∀ {m : Memory}, m.wfFrom lo = true → m.read a = Config.sigResetByte
  | [], _ => rfl
  | (b, v) :: m, h => by
    simp only [Memory.wfFrom, Bool.and_eq_true, decide_eq_true_eq] at h
    obtain ⟨⟨⟨-, hb⟩, -⟩, hm⟩ := h
    have hne : a ≠ b := by omega
    rw [Memory.read, if_neg hne, read_above_of_wfFrom ha hm]

/-- Byte 64 after EMBED: the payload bit stays at the top, the checksum's top 7 bits come below it
(R142). -/
def embeddedByte64 (old : Byte) (c : Word) : Byte :=
  (old &&& 0x80) ||| (c.extractLsb' 24 7).setWidth 8

theorem getLsbD_and_top (v : Byte) (k : Nat) :
    (v &&& 0x80).getLsbD k = (decide (k = 7) && v.getLsbD 7) := by
  have hmask : ∀ k : Fin 8, (0x80 : Byte).getLsbD k.val = decide (k.val = 7) := by decide
  by_cases hk : k < 8
  · rw [BitVec.getLsbD_and, hmask ⟨k, hk⟩]
    by_cases h7 : k = 7
    · subst h7; simp
    · simp [h7]
  · have hne : k ≠ 7 := by omega
    rw [BitVec.getLsbD_of_ge _ _ (by omega), decide_eq_false hne, Bool.false_and]

theorem embeddedByte64_getLsbD (old : Byte) (c : Word) (k : Nat) :
    (embeddedByte64 old c).getLsbD k =
      if k < 7 then c.getLsbD (24 + k) else decide (k = 7) && old.getLsbD 7 := by
  rw [embeddedByte64, BitVec.getLsbD_or, getLsbD_and_top, BitVec.getLsbD_setWidth,
    BitVec.getLsbD_extractLsb']
  by_cases hk : k < 7
  · simp [hk, show k ≠ 7 by omega, show k < 8 by omega]
  · simp [hk]

theorem embeddedByte64_top (old : Byte) (c : Word) :
    (embeddedByte64 old c).getLsbD 7 = old.getLsbD 7 := by
  rw [embeddedByte64_getLsbD]
  rfl

theorem embeddedByte64_field (old : Byte) (c : Word) :
    (embeddedByte64 old c).extractLsb' 0 7 = c.extractLsb' 24 7 := by
  apply BitVec.eq_of_getLsbD_eq
  intro k hk
  simp [embeddedByte64_getLsbD, hk]

/-- Of the old byte 64 only its payload bit enters (R147). -/
theorem embeddedByte64_congr {v w : Byte} (h : v.getLsbD 7 = w.getLsbD 7) (c : Word) :
    embeddedByte64 v c = embeddedByte64 w c := by
  apply BitVec.eq_of_getLsbD_eq
  intro k _
  rw [embeddedByte64_getLsbD, embeddedByte64_getLsbD, h]

/-- Every byte of the buffer after the checksum's store (R142). -/
theorem read_writeChecksum {m : Memory} (hm : m.wf = true) (c : Word) (a : Nat) :
    (writeChecksum m c).read a =
      if a = 67 then c.extractLsb' 0 8 else if a = 66 then c.extractLsb' 8 8
      else if a = 65 then c.extractLsb' 16 8
      else if a = 64 then embeddedByte64 (m.read 64) c else m.read a := by
  have h64 (v : Byte) : (m.write 64 v).wf = true := wf_write hm (by decide)
  have h65 (v v' : Byte) : ((m.write 64 v).write 65 v').wf = true := wf_write (h64 v) (by decide)
  have h66 (v v' v'' : Byte) : (((m.write 64 v).write 65 v').write 66 v'').wf = true :=
    wf_write (h65 v v') (by decide)
  rw [writeChecksum, read_write (h66 _ _ _), read_write (h65 _ _), read_write (h64 _), read_write hm]
  rfl

/-- Settles O37: the checksum is the flushed residue of the payload, and each byte of the new buffer
is the one R142 names. -/
theorem embedWritesTheChecksum : Obligations.EmbedWritesTheChecksum := by
  intro s hm
  have hread := read_writeChecksum hm (checksumWith Config.poly s.sig)
  refine ⟨(embedFn s.sig).2, (embedFn s.sig).1, ?_, rfl, embedFn_checksum_top s.sig,
    wf_writeChecksum hm _, ?_, ?_, hread 65, hread 66, hread 67, fun a ha => ?_⟩
  · rw [residueOfPositions_eq]
    exact (checksumWith_eq Config.poly s.sig).trans (passBitsWith_append _ _ _ _)
  · exact (congrArg (BitVec.getLsbD · 7) (hread 64)).trans (embeddedByte64_top _ _)
  · exact (congrArg (BitVec.extractLsb' 0 7) (hread 64)).trans (embeddedByte64_field _ _)
  · exact read_writeChecksum_of_outside hm _ (by omega)

/-! ### The payload alone decides what EMBED leaves (R147) -/

/-- The two buffers have the same 513 payload bits: bytes 0 to 63 and bit 7 of byte 64 (R52). -/
def SamePayload (m n : Memory) : Prop :=
  (∀ a, a < 64 → m.read a = n.read a) ∧ (m.read 64).getLsbD 7 = (n.read 64).getLsbD 7

theorem SamePayload.getbit_eq {m n : Memory} (h : SamePayload m n) {p : Nat} (hp : p < 513) :
    m.getbit p = n.getbit p := by
  obtain ⟨hbytes, hlast⟩ := h
  by_cases h512 : p = 512
  · subst h512
    exact hlast
  · have hbyte : byteidx p < 64 := by rw [byteidx_eq]; omega
    rw [Memory.getbit, hbytes _ hbyte, Memory.getbit]

theorem SamePayload.positionBits_eq {m n : Memory} (h : SamePayload m n) :
    positionBits m 513 = positionBits n 513 :=
  List.map_congr_left fun _ hp => h.getbit_eq (List.mem_range.mp hp)

theorem samePayload_writeChecksum {m : Memory} (hm : m.wf = true) (c : Word) :
    SamePayload (writeChecksum m c) m := by
  refine ⟨fun a ha => read_writeChecksum_of_outside hm c (by omega), ?_⟩
  exact (congrArg (BitVec.getLsbD · 7) (read_writeChecksum hm c 64)).trans (embeddedByte64_top _ _)

theorem SamePayload.writeChecksum_eq {m n : Memory} (h : SamePayload m n) (hm : m.wf = true)
    (hn : n.wf = true) (c : Word) : writeChecksum m c = writeChecksum n c := by
  obtain ⟨hbytes, hlast⟩ := h
  refine eq_of_read (wf_writeChecksum hm c) (wf_writeChecksum hn c) fun a => ?_
  obtain hlow | hfield | hhigh : a < 64 ∨ (64 ≤ a ∧ a ≤ 67) ∨ 68 ≤ a := by omega
  · rw [read_writeChecksum_of_outside hm c (by omega), read_writeChecksum_of_outside hn c (by omega),
      hbytes a hlow]
  · rw [read_writeChecksum hm, read_writeChecksum hn, embeddedByte64_congr hlast]
    obtain rfl | rfl | rfl | rfl : a = 64 ∨ a = 65 ∨ a = 66 ∨ a = 67 := by omega
    all_goals rfl
  · rw [read_above_of_wfFrom hhigh (wf_writeChecksum hm c),
      read_above_of_wfFrom hhigh (wf_writeChecksum hn c)]

theorem SamePayload.embedFn_eq {m n : Memory} (h : SamePayload m n) (hm : m.wf = true)
    (hn : n.wf = true) : embedFn m = embedFn n := by
  have hsum : checksumWith Config.poly m = checksumWith Config.poly n := by
    rw [checksumWith_eq, checksumWith_eq, h.positionBits_eq]
  rw [embedFn, embedFnWith, hsum, h.writeChecksum_eq hm hn]
  rfl

/-- Settles O40: two buffers with the same payload give one result, and EMBED keeps the payload. -/
theorem embedIgnoresTheOldChecksum : Obligations.EmbedIgnoresTheOldChecksum := by
  refine ⟨fun m n hm hn hbytes hlast => ?_, fun m hm => ?_⟩
  · have hsame : SamePayload m n := ⟨hbytes, hlast⟩
    exact hsame.embedFn_eq hm hn
  · have hsame : SamePayload (embedFn m).1 m := samePayload_writeChecksum hm _
    exact hsame.embedFn_eq (wf_writeChecksum hm _) hm

end Sys2Proof.Machine

/-! ## The round trip (R144) -/

namespace Sys2Proof.Machine

/-- A checksum as bits, the most significant of its 31 first (R142). -/
def checksumBits (c : Word) : List Bool := (List.range 31).map fun j => c.getLsbD (30 - j)

/-- The positions from 513 on hold the checksum, bit `30 - j` at position `513 + j` (R52, R142). -/
theorem getbit_writeChecksum {m : Memory} (hm : m.wf = true) (c : Word) {j : Nat} (hj : j < 31) :
    (writeChecksum m c).getbit (513 + j) = c.getLsbD (30 - j) := by
  have hfield (lo k : Nat) (hk : k < 8) (hsum : lo + k = 30 - j) :
      (c.extractLsb' lo 8).getLsbD k = c.getLsbD (30 - j) := by
    rw [BitVec.getLsbD_extractLsb', decide_eq_true hk, Bool.true_and, hsum]
  rw [Memory.getbit, read_writeChecksum hm, byteidx_eq, bitidx_eq]
  obtain h | h | h | h : (513 + j) / 8 = 64 ∨ (513 + j) / 8 = 65 ∨ (513 + j) / 8 = 66 ∨
    (513 + j) / 8 = 67 := by omega
  all_goals rw [h]
  · have hlow : 7 - (513 + j) % 8 < 7 := by omega
    have hsum : 24 + (7 - (513 + j) % 8) = 30 - j := by omega
    exact (embeddedByte64_getLsbD _ c _).trans (by rw [if_pos hlow, hsum])
  · exact hfield 16 _ (by omega) (by omega)
  · exact hfield 8 _ (by omega) (by omega)
  · exact hfield 0 _ (by omega) (by omega)

theorem positionBits_writeChecksum {m : Memory} (hm : m.wf = true) (c : Word) :
    positionBits (writeChecksum m c) 544 = positionBits m 513 ++ checksumBits c := by
  have hfield : (List.range 31).map (fun j => (writeChecksum m c).getbit (513 + j)) =
      checksumBits c :=
    List.map_congr_left fun j hj => getbit_writeChecksum hm c (List.mem_range.mp hj)
  rw [← hfield, ← (samePayload_writeChecksum hm c).positionBits_eq, positionBits, positionBits,
    List.range_add (n := 513) (m := 31), List.map_append, List.map_map]
  rfl

/-- While bit 30 of the state is 0 no reduction takes place, and the bit enters at the bottom. -/
theorem passBitWith_ushiftRight (g : Word) {c : Word} (hc : c.getLsbD 31 = false) (k : Nat) :
    passBitWith g (c >>> (k + 1)) (c.getLsbD k) = c >>> k := by
  have hshift : (c >>> (k + 1)).shiftConcat (c.getLsbD k) = c >>> k := by
    ext i hi
    cases i with
    | zero => simp
    | succ i =>
      have hsum : k + 1 + i = k + (i + 1) := by omega
      simp [hsum]
  have htop : (c >>> k).getLsbD 31 = false := by
    rw [BitVec.getLsbD_ushiftRight]
    exact getLsbD_of_top_clear hc (by omega)
  rw [passBitWith_eq, hshift, reduceWith, if_neg (Bool.eq_false_iff.mp htop)]

/-- Thirty-one bits that enter a divider at zero are its state afterwards. -/
theorem passBitsWith_checksumBits (g : Word) {c : Word} (hc : c.getLsbD 31 = false) :
    passBitsWith g 0 (checksumBits c) = c := by
  have hpart : ∀ n ≤ 31, passBitsWith g 0 ((List.range n).map fun j => c.getLsbD (30 - j)) =
      c >>> (31 - n) := by
    intro n hn
    induction n with
    | zero =>
      apply BitVec.eq_of_getLsbD_eq
      intro i _
      rw [BitVec.getLsbD_ushiftRight, getLsbD_of_top_clear hc (by omega)]
      exact BitVec.getLsbD_zero
    | succ n ih =>
      have hk : 31 - n = 30 - n + 1 := by omega
      rw [List.range_succ, List.map_append, passBitsWith_append, ih (by omega), hk,
        Nat.add_sub_add_right 30 1 n]
      exact passBitWith_ushiftRight g hc (30 - n)
  exact (hpart 31 le_rfl).trans (BitVec.ushiftRight_zero _)

/-- A stream whose 31 flushing zeros give the checksum `c` has residue zero with `c` in their place:
by linearity the divider ends at the xor of the flushed residue and `c` itself (R104, R144). -/
theorem passBitsWith_append_checksumBits (g : Word) {l : List Bool} {c : Word}
    (hc : c.getLsbD 31 = false)
    (hflush : passBitsWith g 0 (l ++ List.replicate 31 false) = c) :
    passBitsWith g 0 (l ++ checksumBits c) = 0 := by
  rw [passBitsWith_append] at hflush
  calc passBitsWith g 0 (l ++ checksumBits c)
      = passBitsWith g (passBitsWith g 0 l) (checksumBits c) := passBitsWith_append g _ _ _
    _ = passBitsWith g (passBitsWith g 0 l) (List.replicate 31 false) ^^^
          passBitsWith g 0 (checksumBits c) := passBitsWith_eq_xor g _ (checksumBits c)
    _ = c ^^^ c := by rw [hflush, passBitsWith_checksumBits g hc]
    _ = 0 := BitVec.xor_self

/-- Settles O39: EMBED leaves the payload's bits followed by those of the checksum they flush to. -/
theorem embedThenCheckIsZero : Obligations.EmbedThenCheckIsZero := by
  intro m hm
  rw [embedFn, embedFnWith, checkFn, checkFnWith_eq, positionBits_writeChecksum hm]
  exact passBitsWith_append_checksumBits _ (embedFn_checksum_top m) (checksumWith_eq _ m).symm

end Sys2Proof.Machine

/-! ## The codec is a polynomial remainder (R150) -/

namespace Sys2Proof.Machine

open Sys2Proof.Claims Polynomial

/-- A bit stream read as a polynomial by Horner's rule, the first bit the highest power. -/
noncomputable def streamPoly (l : List Bool) : (ZMod 2)[X] :=
  l.foldl (fun f b => f * X + if b then 1 else 0) 0

@[simp] theorem streamPoly_concat (l : List Bool) (b : Bool) :
    streamPoly (l ++ [b]) = streamPoly l * X + if b then 1 else 0 :=
  List.foldl_concat ..

/-- Each flushing zero is a multiplication by x (R141). -/
theorem streamPoly_append_zeros (l : List Bool) (n : Nat) :
    streamPoly (l ++ List.replicate n false) = streamPoly l * X ^ n := by
  induction n with
  | zero => simp
  | succ n ih =>
    rw [List.replicate_succ', ← List.append_assoc, streamPoly_concat, ih, pow_succ, mul_assoc]
    simp

/-- The polynomial of a buffer's first positions, as the claims state it. -/
theorem representsBuffer_iff {m : Memory} {n : Nat} {f : (ZMod 2)[X]} :
    RepresentsBuffer m n f ↔ f = streamPoly (positionBits m n) := by
  suffices hsum : ∑ p ∈ Finset.range n, (if m.getbit p then X ^ (n - 1 - p) else 0 : (ZMod 2)[X]) =
      streamPoly (positionBits m n) by rw [RepresentsBuffer, hsum]
  induction n with
  | zero => rfl
  | succ n ih =>
    have hbits : positionBits m (n + 1) = positionBits m n ++ [m.getbit n] := by
      rw [positionBits, List.range_succ, List.map_append]
      rfl
    rw [hbits, streamPoly_concat, ← ih, Finset.sum_range_succ, Finset.sum_mul]
    congr 1
    · refine Finset.sum_congr rfl fun p hp => ?_
      have hlt : p < n := Finset.mem_range.mp hp
      have hexp : n + 1 - 1 - p = n - 1 - p + 1 := by omega
      rw [hexp, pow_succ, ite_mul, zero_mul]
    · simp

@[simp] theorem wordPoly_zero : wordPoly 0 = 0 := by
  ext i
  simp

/-- The divider's state after a stream is the stream's remainder by the generator (R103, R150). -/
theorem wordPoly_passBitsWith_poly (l : List Bool) :
    wordPoly (passBitsWith Config.poly 0 l) = streamPoly l %ₘ wordPoly Config.poly := by
  have hpoly : Config.poly.getLsbD 31 = true := by decide
  induction l using List.reverseRecOn with
  | nil =>
    rw [passBitsWith, List.foldl_nil, wordPoly_zero, streamPoly, List.foldl_nil, zero_modByMonic]
  | append_singleton l b ih =>
    have htop : (passBitsWith Config.poly 0 l).getLsbD 31 = false :=
      passBitsWith_poly_top (by decide) l
    have hcongr : wordPoly Config.poly ∣ (streamPoly l %ₘ wordPoly Config.poly * X +
        if b then 1 else 0) - (streamPoly l * X + if b then 1 else 0) := by
      rw [add_sub_add_right_eq_sub, ← sub_mul]
      exact (dvd_modByMonic_sub _ _).mul_right X
    calc wordPoly (passBitsWith Config.poly 0 (l ++ [b]))
        = wordPoly (passBitWith Config.poly (passBitsWith Config.poly 0 l) b) := by
          rw [passBitsWith_append]; rfl
      _ = (streamPoly l %ₘ wordPoly Config.poly * X + if b then 1 else 0) %ₘ
            wordPoly Config.poly := by rw [wordPoly_passBitWith hpoly htop, ih]
      _ = streamPoly (l ++ [b]) %ₘ wordPoly Config.poly := by
          rw [streamPoly_concat]
          exact modByMonic_eq_of_dvd_sub (wordPoly_monic hpoly) hcongr

/-- Settles O41: both divisions are remainders of their streams, and the 31 zeros multiply the payload
by x^31. -/
theorem codecIsPolynomialRemainder : Obligations.CodecIsPolynomialRemainder := by
  intro m B M G R C hB hM hG hR hC
  rw [represents_iff.mp hR, represents_iff.mp hC, represents_iff.mp hG,
    representsBuffer_iff.mp hB, representsBuffer_iff.mp hM]
  refine ⟨?_, ?_⟩
  · rw [checkFn, checkFnWith_eq]
    exact wordPoly_passBitsWith_poly _
  · rw [embedFn, embedFnWith, checksumWith_eq, wordPoly_passBitsWith_poly, streamPoly_append_zeros]
    rfl

end Sys2Proof.Machine

/-! ## BUILD and the reads of the table, admitted or refused (R170 to R174, R273) -/

namespace Sys2Proof.Machine

open Sys2Proof.Claims

section
variable {s : State} {k : Host.Outcome State Fault Refusal}

theorem withoutTable_absent (hce : s.ce = false) (htv : s.tv = false) : withoutTable s k = k := by
  simp [withoutTable, hce, htv]

theorem withoutTable_built (hce : s.ce = false) (htv : s.tv = true) :
    withoutTable s k = raise .eState s := by
  simp [withoutTable, hce, htv]

theorem withoutTable_configError (hce : s.ce = true) : withoutTable s k = raise .eCfg s :=
  if_pos hce

/-- A read of an installed table at a legal index passes the checks 3 to 5 (R273). -/
theorem tableRead_ready {idx : BitVec 10} {tab : Vector Word 544} (hidx : idx.toNat < 544)
    (hce : s.ce = false) (htv : s.tv = true) (htab : s.tab = some tab)
    (k : Fin 544 → Vector Word 544 → Host.Outcome State Fault Refusal) :
    withIndex idx s (fun p => withTable s (k p)) = k ⟨idx.toNat, hidx⟩ tab := by
  rw [withIndex_legal hidx, withTable_ready hce htv, table_of_some htab]

end

/-- Settles O42: BUILD is admitted, this block's generator passes the check, and the recurrence
gives the entries of the definition. -/
theorem buildInstallsTheTable : Obligations.BuildInstallsTheTable := by
  intro s hce htv
  refine ⟨?_, syntabWith_eq_probeWith Config.poly⟩
  rw [exec, execBuild, withoutTable_absent hce htv, buildWith_poly]
  rfl

/-- Settles O43: `CE` is tested first, then `TV`. -/
theorem secondBuildRefused : Obligations.SecondBuildRefused := by
  intro s
  refine ⟨fun hce htv => ?_, fun hce => ?_⟩
  · rw [exec, execBuild, withoutTable_built hce htv]
    rfl
  · rw [exec, execBuild, withoutTable_configError hce]
    rfl

/-- Settles O50: the three reads pass the same checks and answer their element. -/
theorem tableReadsAnswer : Obligations.TableReadsAnswer := by
  intro s idx t h hce htv htab
  refine ⟨?_, ?_, ?_⟩
  · exact tableRead_ready h hce htv htab fun p tab => respond tab[p] s
  · exact tableRead_ready h hce htv htab fun p tab => respond (sortedView tab)[p].syn s
  · exact tableRead_ready h hce htv htab fun p tab =>
      respond ((sortedView tab)[p].pos.setWidth 32) s

end Sys2Proof.Machine

/-! ## The sorted view is the library's merge sort (R165) -/

namespace Sys2Proof.Machine

/-- The order of the sorted view: by syndrome, unsigned (R165). -/
def synLe (x y : SortedPair) : Bool := x.syn.ule y.syn

/-- A run ascends by syndrome. -/
def Ascending (run : List SortedPair) : Prop := run.Pairwise fun x y => synLe x y = true

theorem mergeHead_eq_merge (x : SortedPair) {rest : List SortedPair → List SortedPair}
    {xs : List SortedPair} (hrest : ∀ ys, rest ys = xs.merge ys synLe) (ys : List SortedPair) :
    mergeHead x rest ys = (x :: xs).merge ys synLe := by
  induction ys with
  | nil => rw [mergeHead, hrest, List.merge_right, List.merge_right]
  | cons y ys ih => rw [mergeHead, hrest, ih, List.cons_merge_cons]; rfl

/-- The model's merge of two runs is the library's. -/
theorem mergeRuns_eq_merge (xs ys : List SortedPair) : mergeRuns xs ys = xs.merge ys synLe := by
  induction xs generalizing ys with
  | nil => rw [List.nil_merge]; rfl
  | cons x xs ih => exact mergeHead_eq_merge x ih ys

theorem ascending_mergeRuns {xs ys : List SortedPair} (hxs : Ascending xs) (hys : Ascending ys) :
    Ascending (mergeRuns xs ys) := by
  have htrans (x y z : SortedPair) (hxy : synLe x y = true) (hyz : synLe y z = true) :
      synLe x z = true := by
    simp only [synLe, BitVec.ule_iff_le] at *
    exact BitVec.le_trans hxy hyz
  have htotal (x y : SortedPair) : (synLe x y || synLe y x) = true := by
    simp only [synLe, Bool.or_eq_true, BitVec.ule_iff_le]
    exact BitVec.le_total x.syn y.syn
  rw [mergeRuns_eq_merge]
  exact List.pairwise_merge htrans htotal xs ys hxs hys

theorem ascending_mergePairs : ∀ {runs : List (List SortedPair)},
    (∀ run ∈ runs, Ascending run) → ∀ run ∈ mergePairs runs, Ascending run
  | [], h => h
  | [_], h => h
  | a :: b :: runs, h => by
    simp only [mergePairs, List.forall_mem_cons] at h ⊢
    obtain ⟨ha, hb, hruns⟩ := h
    exact ⟨ascending_mergeRuns ha hb, ascending_mergePairs hruns⟩

theorem mergePairs_perm : ∀ runs : List (List SortedPair),
    (mergePairs runs).flatten.Perm runs.flatten
  | [] => .rfl
  | [_] => .rfl
  | a :: b :: runs => by
    simp only [mergePairs, List.flatten_cons, mergeRuns_eq_merge, ← List.append_assoc]
    exact (List.merge_perm_append synLe).append (mergePairs_perm runs)

/-- A round halves the number of runs. -/
theorem mergePairs_length_le : ∀ runs : List (List SortedPair),
    2 * (mergePairs runs).length ≤ runs.length + 1
  | [] => by simp [mergePairs]
  | [_] => by simp [mergePairs]
  | a :: b :: runs => by
    have ih := mergePairs_length_le runs
    simp only [mergePairs, List.length_cons]
    omega

theorem mergeRounds_perm (n : Nat) (runs : List (List SortedPair)) :
    (mergeRounds n runs).flatten.Perm runs.flatten := by
  induction n generalizing runs with
  | zero => exact .rfl
  | succ n ih => exact (ih _).trans (mergePairs_perm runs)

/-- After `n` rounds up to 2^n runs have become one. -/
theorem ascending_mergeRounds (n : Nat) {runs : List (List SortedPair)}
    (hruns : ∀ run ∈ runs, Ascending run) (hlen : runs.length ≤ 2 ^ n) :
    Ascending (mergeRounds n runs).flatten := by
  induction n generalizing runs with
  | zero =>
    match runs with
    | [] => exact .nil
    | [run] => simpa [mergeRounds] using hruns
    | _ :: _ :: _ => simp at hlen
  | succ n ih =>
    have hhalf := mergePairs_length_le runs
    exact ih (ascending_mergePairs hruns) (by omega)

theorem sortPairs_perm (l : List SortedPair) : (sortPairs l).Perm l := by
  have hsingle : (l.map ([·])).flatten = l := by
    rw [← List.flatMap_def, List.flatMap_singleton']
  exact (mergeRounds_perm 10 _).trans (.of_eq hsingle)

theorem ascending_sortPairs {l : List SortedPair} (hlen : l.length ≤ 1024) :
    Ascending (sortPairs l) := by
  refine ascending_mergeRounds 10 (fun run hrun => ?_) (by simpa using hlen)
  obtain ⟨x, -, rfl⟩ := List.mem_map.mp hrun
  exact List.pairwise_singleton _ x

end Sys2Proof.Machine

/-! ## The builder's check holds exactly the tables R169 admits -/

namespace Sys2Proof.Machine

open Sys2Proof.Claims

/-- No two positions share an entry, and no entry is zero (R169). -/
def Unambiguous (t : Vector Word 544) : Prop :=
  Function.Injective (fun p : Fin 544 => t[p]) ∧ ∀ p : Fin 544, t[p] ≠ 0

theorem not_ambiguous_iff (g : Word) : ¬ ambiguous g ↔ Unambiguous (syntabWith g) := by
  simp only [ambiguous, Unambiguous, syntabWith_eq_probeWith, Function.Injective, not_or,
    not_exists, not_and', not_not]

/-- The pair of position `p` in the table `t` (R165). -/
def pairAt (t : Vector Word 544) (p : Fin 544) : SortedPair := ⟨t[p], BitVec.ofNat 10 p⟩

theorem pairAt_syn (t : Vector Word 544) (p : Fin 544) : (pairAt t p).syn = t[p] := rfl

theorem pairAt_pos_toNat (t : Vector Word 544) (p : Fin 544) : (pairAt t p).pos.toNat = p := by
  simp only [pairAt, BitVec.toNat_ofNat]
  omega

theorem pairsOf_eq_ofFn (t : Vector Word 544) : pairsOf t = List.ofFn (pairAt t) := by
  apply List.ext_getElem
  · simp only [pairsOf, List.length_map, List.length_zipIdx, Vector.length_toList, List.length_ofFn]
  · intro p _ _
    simp only [pairsOf, pairAt, List.getElem_map, List.getElem_zipIdx, Vector.getElem_toList,
      List.getElem_ofFn, Nat.zero_add, Fin.getElem_fin]

section
variable (t : Vector Word 544)

theorem sortedView_perm : (sortedView t).toList.Perm (List.ofFn (pairAt t)) :=
  pairsOf_eq_ofFn t ▸ sortPairs_perm (pairsOf t)

theorem ascending_sortedView : Ascending (sortedView t).toList :=
  ascending_sortPairs (by simp [pairsOf])

/-- The sorted view holds the pair of every position, and nothing else (R165). -/
theorem mem_sortedView_iff (x : SortedPair) :
    x ∈ (sortedView t).toList ↔ ∃ p : Fin 544, x = pairAt t p := by
  rw [(sortedView_perm t).mem_iff, List.mem_ofFn]
  simp only [eq_comm]

/-- The syndromes in the order of the view. -/
def sortedSyndromes : List Word := (sortedView t).toList.map SortedPair.syn

theorem sortedSyndromes_perm : (sortedSyndromes t).Perm (List.ofFn fun p : Fin 544 => t[p]) := by
  have h := (sortedView_perm t).map SortedPair.syn
  rwa [List.map_ofFn] at h

theorem sortedSyndromes_le : (sortedSyndromes t).Pairwise (· ≤ ·) :=
  List.pairwise_map.mpr ((ascending_sortedView t).imp BitVec.ule_iff_le.mp)

theorem mem_sortedSyndromes_iff (x : Word) :
    x ∈ sortedSyndromes t ↔ ∃ p : Fin 544, t[p] = x := by
  rw [(sortedSyndromes_perm t).mem_iff, List.mem_ofFn]

theorem sortedSyndromes_nodup_iff :
    (sortedSyndromes t).Nodup ↔ Function.Injective fun p : Fin 544 => t[p] := by
  rw [(sortedSyndromes_perm t).nodup_iff, List.nodup_ofFn]

end

/-- The builder's scan is the strict order of the syndromes behind the bound. -/
theorem strictlyAbove_iff (lo : Word) (l : List SortedPair) :
    strictlyAbove lo l = true ↔ (lo :: l.map SortedPair.syn).Pairwise (· < ·) := by
  rw [← List.isChain_iff_pairwise]
  induction l generalizing lo with
  | nil => simp [strictlyAbove]
  | cons x l ih =>
    rw [strictlyAbove, Bool.and_eq_true, BitVec.ult_iff_lt, ih, List.map_cons,
      List.isChain_cons_cons]

theorem tableSound_iff_pairwise (t : Vector Word 544) : tableSound t = true ↔
    (∀ x ∈ sortedSyndromes t, 0 < x) ∧ (sortedSyndromes t).Pairwise (· < ·) := by
  rw [tableSound, strictlyAbove_iff, List.pairwise_cons]
  rfl

/-- Words in ascending order ascend strictly exactly if none occurs twice. -/
theorem pairwise_lt_iff_nodup {l : List Word} (hle : l.Pairwise (· ≤ ·)) :
    l.Pairwise (· < ·) ↔ l.Nodup := by
  refine ⟨fun hlt => hlt.imp BitVec.ne_of_lt, fun hnodup => ?_⟩
  exact (hle.and hnodup).imp fun ⟨hxy, hne⟩ => BitVec.lt_of_le_ne hxy hne

/-- The builder's check is R169's condition, for every table. -/
theorem tableSound_iff (t : Vector Word 544) : tableSound t = true ↔ Unambiguous t := by
  have hpos : (∀ x ∈ sortedSyndromes t, 0 < x) ↔ ∀ p : Fin 544, t[p] ≠ 0 := by
    simp only [mem_sortedSyndromes_iff, forall_exists_index, forall_apply_eq_imp_iff]
    exact forall_congr' fun p => BitVec.pos_iff_ne_zero t[p]
  rw [tableSound_iff_pairwise, pairwise_lt_iff_nodup (sortedSyndromes_le t),
    sortedSyndromes_nodup_iff, hpos, and_comm, Unambiguous]

theorem not_ambiguous_iff_tableSound (g : Word) :
    ¬ ambiguous g ↔ tableSound (syntabWith g) = true :=
  (not_ambiguous_iff g).trans (tableSound_iff _).symm

/-- A refusal with a code other than `OK` is told from an answer by its response (R71, R272). -/
theorem refused_ne_answered {e : StatusCode} (he : e ≠ .ok) (code : BitVec 4) (d : Word)
    {s t : State} (hresp : s.responses = t.responses) : refused e code s ≠ answered d t := by
  intro h
  have hlast : s.responses ++ [⟨e, 0⟩] = t.responses ++ [⟨.ok, d⟩] := congrArg State.responses h
  rw [hresp, List.append_cancel_left_eq] at hlast
  simp [he] at hlast

/-- Settles O44: the builder follows its check, the check is R169's condition, and the two outcomes
differ in their response. -/
theorem builderRejectsExactlyAmbiguousTables :
    Obligations.BuilderRejectsExactlyAmbiguousTables := by
  intro g s
  have hdiffer : refused .eCfg 4 { s with ce := true } ≠
      answered 0 { s with tab := some (syntabWith g), tv := true, crc := 0 } :=
    refused_ne_answered (by decide) _ _ rfl
  by_cases hsound : tableSound (syntabWith g) = true
  · have hbuild : buildWith g s =
        .next (answered 0 { s with tab := some (syntabWith g), tv := true, crc := 0 }) :=
      if_pos hsound
    have hclear := (not_ambiguous_iff_tableSound g).mpr hsound
    rw [hbuild]
    exact ⟨iff_of_false (fun h => hdiffer (Host.Outcome.next.inj h).symm) hclear,
      iff_of_true rfl hclear⟩
  · have hbuild : buildWith g s = .next (refused .eCfg 4 { s with ce := true }) := if_neg hsound
    have hclash := not_not.mp (mt (not_ambiguous_iff_tableSound g).mp hsound)
    rw [hbuild]
    exact ⟨iff_of_true rfl hclash,
      iff_of_false (fun h => hdiffer (Host.Outcome.next.inj h)) (not_not.mpr hclash)⟩

/-- This block's table meets R169's condition, by the check that `Laws/Table.lean` has evaluated. -/
theorem unambiguous_poly : Unambiguous (syntabWith Config.poly) :=
  (tableSound_iff _).mp tableSound_poly

theorem syntab_injective {p q : Fin 544}
    (h : (syntabWith Config.poly)[p] = (syntabWith Config.poly)[q]) : p = q :=
  unambiguous_poly.1 h

theorem syntab_ne_zero (p : Fin 544) : (syntabWith Config.poly)[p] ≠ 0 :=
  unambiguous_poly.2 p

/-- An entry is a residue of the block's generator, so it has bit 31 clear (R35, R166). -/
theorem syntab_top (p : Fin 544) : (syntabWith Config.poly)[p].getLsbD 31 = false := by
  rw [syntabWith_eq_probeWith]
  exact checkFn_top _

/-- Settles O48: the table is unambiguous, and its entries are residues. -/
theorem syndromesAreDistinct : Obligations.SyndromesAreDistinct :=
  ⟨fun _ _ => syntab_injective, fun p => ⟨syntab_ne_zero p, syntab_top p⟩⟩

/-- The ends of the sorted view (R165), evaluated once in the kernel. -/
theorem sortedView_poly_ends :
    (sortedView (syntabWith Config.poly))[0] = ⟨0x00000001, 543⟩ ∧
    (sortedView (syntabWith Config.poly))[1] = ⟨0x00000002, 542⟩ ∧
    (sortedView (syntabWith Config.poly))[2] = ⟨0x00000004, 541⟩ ∧
    (sortedView (syntabWith Config.poly))[543] = ⟨0x7FF8C5CD, 425⟩ := by
  decide +kernel

/-- Every rank of the view holds the pair of some position (R165). -/
theorem sortedView_getElem (t : Vector Word 544) (i : Fin 544) :
    ∃ p : Fin 544, (sortedView t)[i] = pairAt t p := by
  rw [← mem_sortedView_iff, Vector.mem_toList_iff]
  exact Vector.getElem_mem i.isLt

/-- Every position has a rank in the view (R165). -/
theorem exists_sortedView_eq_pairAt (t : Vector Word 544) (p : Fin 544) :
    ∃ i : Fin 544, (sortedView t)[i] = pairAt t p := by
  have hmem : pairAt t p ∈ sortedView t :=
    Vector.mem_toList_iff.mp ((mem_sortedView_iff t _).mpr ⟨p, rfl⟩)
  obtain ⟨i, hi, heq⟩ := Vector.mem_iff_getElem.mp hmem
  exact ⟨⟨i, hi⟩, heq⟩

/-- In the view of a sound table the syndromes ascend strictly from rank to rank (R165). -/
theorem sortedView_syn_lt {t : Vector Word 544} (hsound : tableSound t = true) {i j : Fin 544}
    (hij : i < j) : (sortedView t)[i].syn < (sortedView t)[j].syn := by
  obtain ⟨-, hlt⟩ := (tableSound_iff_pairwise t).mp hsound
  simpa [sortedSyndromes] using
    List.pairwise_iff_getElem.mp hlt i j (by simp [sortedSyndromes]) (by simp [sortedSyndromes]) hij

/-- Settles O49: the order comes from the builder's check, the pairs from the sort's being a
permutation, the ends from evaluation. -/
theorem sortedViewIsSorted : Obligations.SortedViewIsSorted := by
  refine ⟨fun i j hij => BitVec.lt_def.mp (sortedView_syn_lt tableSound_poly hij), fun i => ?_,
    fun p => ?_, sortedView_poly_ends⟩
  · obtain ⟨p, hp⟩ := sortedView_getElem (syntabWith Config.poly) i
    exact ⟨p, by rw [hp, pairAt_pos_toNat], by rw [hp, pairAt_syn]⟩
  · obtain ⟨i, hi⟩ := exists_sortedView_eq_pairAt (syntabWith Config.poly) p
    exact ⟨i, by rw [hi, pairAt_pos_toNat]⟩

end Sys2Proof.Machine

/-! ## The table by R164 -/

namespace Sys2Proof.Machine

/-- Entry `543 - k` is `PassBit(·, 0)` applied `k` times to 1 (R164). -/
theorem checkFn_flip_nil_eq_iterate {k : Nat} (hk : k ≤ 543) :
    checkFn (Memory.flip [] (543 - k)) = (passBit · false)^[k] 1 := by
  have hsub : 543 - (543 - k) = k := by omega
  exact (probeWith_eq_iterate Config.poly ⟨543 - k, by omega⟩).trans
    (congrArg (fun n => (passBit · false)^[n] 1) hsub)

/-- While the lone bit stays below bit 31 a step only shifts it (R100, R164). -/
theorem iterate_passBit_one {k : Nat} (hk : k ≤ 30) :
    (passBit · false)^[k] 1 = (1 : Word) <<< k := by
  induction k with
  | zero => rfl
  | succ k ih =>
    have hshift : (1 : Word) <<< k <<< 1 ||| (BitVec.ofBool false).setWidth 32 =
        BitVec.twoPow 32 (k + 1) := by
      rw [BitVec.twoPow_eq, BitVec.shiftLeft_add]
      exact BitVec.or_zero
    have htop : (BitVec.twoPow 32 (k + 1)).getLsbD 31 = false := by
      have hne : k + 1 ≠ 31 := by omega
      rw [BitVec.getLsbD_twoPow, decide_eq_false hne, Bool.and_false]
    rw [Function.iterate_succ_apply', ih (by omega), passBit, passBitWith, hshift, reduceWith,
      if_neg (Bool.eq_false_iff.mp htop), BitVec.twoPow_eq]
    rfl

/-- The step from position `p` to position `p - 1` (R164). -/
theorem checkFn_flip_nil_pred {p : Nat} (hlo : 1 ≤ p) (hhi : p ≤ 543) :
    checkFn (Memory.flip [] (p - 1)) = passBit (checkFn (Memory.flip [] p)) false := by
  obtain ⟨k, hk, rfl⟩ : ∃ k, k + 1 ≤ 543 ∧ p = 543 - k := ⟨543 - p, by omega, by omega⟩
  have hpred : 543 - k - 1 = 543 - (k + 1) := by omega
  rw [hpred, checkFn_flip_nil_eq_iterate hk, checkFn_flip_nil_eq_iterate (Nat.le_of_succ_le hk),
    Function.iterate_succ_apply']

/-- Settles O45: the entries are iterates of one step from 1; the first reduction happens at
position 512, the second at 511, and position 0 is evaluated. -/
theorem tableFollowsTheRecurrence : Obligations.TableFollowsTheRecurrence := by
  have honehot {k : Nat} (hk : k ≤ 30) :
      checkFn (Memory.flip [] (543 - k)) = (1 : Word) <<< k :=
    (checkFn_flip_nil_eq_iterate (by omega)).trans (iterate_passBit_one hk)
  have h512 : checkFn (Memory.flip [] 512) = 0x41E52417 := by
    calc checkFn (Memory.flip [] 512)
        = passBit (checkFn (Memory.flip [] 513)) false :=
          checkFn_flip_nil_pred (p := 513) (by decide) (by decide)
      _ = passBit ((1 : Word) <<< 30) false := by rw [honehot (k := 30) le_rfl]
      _ = 0x41E52417 := by decide
  have h511 : checkFn (Memory.flip [] 511) = 0x422F6C39 := by
    rw [checkFn_flip_nil_pred (p := 512) (by decide) (by decide), h512]
    decide
  have h0 : checkFn (Memory.flip [] 0) = 0x2949AE09 := by
    rw [checkFn_flip_nil_eq_iterate (k := 543) le_rfl]
    decide +kernel
  exact ⟨honehot (k := 0) (by decide), fun p => checkFn_flip_nil_pred, fun k => honehot, h512, h511,
    h0⟩

end Sys2Proof.Machine

/-! ## The residue is linear in the flipped positions (R161, R162) -/

namespace Sys2Proof.Machine

section
variable {m : Memory} (hm : m.wf = true)
include hm

theorem positionBits_flip (p n : Nat) : positionBits (m.flip p) n =
    List.zipWith (· ^^ ·) (positionBits m n) (positionBits (Memory.flip [] p) n) := by
  have hbits : (m.flip p).getbit = fun q => m.getbit q ^^ decide (q = p) :=
    funext (getbit_flip hm p)
  simp only [positionBits, hbits, List.zipWith_map, List.zipWith_self, getbit_flip_nil]

/-- A flip adds its syndrome to the residue, whatever the residue was (R104, R162). -/
theorem checkFnWith_flip (g : Word) (p : Nat) :
    checkFnWith g (m.flip p) = checkFnWith g m ^^^ probeWith g p := by
  rw [probeWith, checkFnWith_eq, checkFnWith_eq, checkFnWith_eq, positionBits_flip hm,
    ← passBitsWith_zipWith_xor g (by simp [positionBits])]
  rfl

theorem checkFn_flip (p : Fin 544) :
    checkFn (m.flip p) = checkFn m ^^^ (syntabWith Config.poly)[p] := by
  rw [syntabWith_eq_probeWith]
  exact checkFnWith_flip hm Config.poly p

end

/-- Flips one after another add their syndromes (R162). -/
theorem checkFn_foldl_flip {m : Memory} (hm : m.wf = true) (ps : List (Fin 544)) :
    checkFn ((ps.map Fin.val).foldl Memory.flip m) =
      ps.foldl (fun x p => x ^^^ (syntabWith Config.poly)[p]) (checkFn m) := by
  induction ps generalizing m with
  | nil => rw [List.map_nil, List.foldl_nil, List.foldl_nil]
  | cons p ps ih =>
    rw [List.map_cons, List.foldl_cons, List.foldl_cons, ih (wf_flip hm p.isLt), checkFn_flip hm]

/-- A valid signature with one position flipped has that position's syndrome (R161). -/
theorem checkFn_flip_of_valid {m : Memory} (hm : m.wf = true) (hzero : checkFn m = 0)
    (p : Fin 544) : checkFn (m.flip p) = (syntabWith Config.poly)[p] := by
  rw [checkFn_flip hm, hzero]
  exact BitVec.zero_xor

/-- Settles O46: the residue after the flip is the entry, and no entry is zero. -/
theorem singleFlipGivesTheTableEntry : Obligations.SingleFlipGivesTheTableEntry := by
  intro m p hm hzero
  have hentry := checkFn_flip_of_valid hm hzero p
  exact ⟨hentry, hentry ▸ syntab_ne_zero p⟩

/-- Settles O47: the flips add their syndromes to the zero residue; that the positions are distinct
is not needed. -/
theorem syndromesSuperpose : Obligations.SyndromesSuperpose := by
  intro m ps hm hzero _
  rw [bind_pure_comp, List.map_eq_map, ← hzero]
  exact checkFn_foldl_flip hm ps

end Sys2Proof.Machine

/-! ## Two errors are no single error: x + 1 divides the generator (R176) -/

namespace Sys2Proof.Machine

open Polynomial Sys2Proof.Claims

/-- The parity of a word's set bits: its polynomial at x = 1. -/
noncomputable def parity (w : Word) : ZMod 2 := (wordPoly w).eval 1

theorem parity_xor (v w : Word) : parity (v ^^^ w) = parity v + parity w := by
  rw [parity, wordPoly_xor, eval_add]
  rfl

theorem parity_eq_sum (w : Word) :
    parity w = ∑ i ∈ Finset.range 32, if w.getLsbD i then 1 else 0 := by
  rw [parity, wordPoly, eval_finsetSum]
  refine Finset.sum_congr rfl fun i _ => ?_
  split
  · rw [eval_pow, eval_X, one_pow]
  · exact eval_zero

/-- The generator has an even number of terms, so x + 1 divides it (R176). -/
theorem parity_poly : parity Config.poly = 0 := by
  rw [parity_eq_sum]
  decide

theorem parity_one : parity 1 = 1 := by
  rw [parity_eq_sum]
  decide

/-- A step with bit 0 keeps the parity: the shift loses no bit, and a reduction takes away a
multiple of x + 1. -/
theorem parity_passBit {s : Word} (hs : s.getLsbD 31 = false) :
    parity (passBit s false) = parity s := by
  have hpoly : Config.poly.getLsbD 31 = true := by decide
  rw [parity, passBit, wordPoly_passBitWith hpoly hs]
  calc eval 1 ((wordPoly s * X + if false then 1 else 0) %ₘ wordPoly Config.poly)
      = eval 1 (wordPoly s * X + if false then 1 else 0) :=
        eval₂_modByMonic_eq_self_of_root parity_poly
    _ = parity s := by simp [parity]

/-- Every syndrome has an odd number of set bits (R176). -/
theorem parity_syntab (p : Fin 544) : parity (syntabWith Config.poly)[p] = 1 := by
  rw [syntabWith_eq_iterate]
  have hiter : ∀ k, ((passBit · false)^[k] 1).getLsbD 31 = false ∧
      parity ((passBit · false)^[k] 1) = 1 := by
    intro k
    induction k with
    | zero => exact ⟨by decide, parity_one⟩
    | succ k ih =>
      obtain ⟨htop, hodd⟩ := ih
      rw [Function.iterate_succ_apply']
      exact ⟨passBit_top _ _, (parity_passBit htop).trans hodd⟩
  obtain ⟨-, hodd⟩ := hiter (543 - p.val)
  exact hodd

/-- The xor of two syndromes is no syndrome: its parity is even (R176). -/
theorem syntab_ne_xor (p q r : Fin 544) : (syntabWith Config.poly)[r] ≠
    (syntabWith Config.poly)[p] ^^^ (syntabWith Config.poly)[q] := by
  intro h
  have hparity := congrArg parity h
  rw [parity_xor, parity_syntab, parity_syntab, parity_syntab] at hparity
  exact absurd hparity (by decide)

/-- The table stays ready under every command but the two that write it (R82). -/
theorem State.tableReady.of_exec {i : Instr} {s t : State} (hs : s.tableReady)
    (h : exec i s = .next t) (hsrst : i ≠ .srst) (hbuild : i ≠ .build) : t.tableReady := by
  obtain ⟨hce, htv, htab⟩ := hs
  obtain ⟨htv', htab', hce'⟩ | hi | hi := (exec_effect h).table_frame
  · exact ⟨hce'.trans hce, htv'.trans htv, htab'.trans htab⟩
  · exact absurd hi hsrst
  · exact absurd hi hbuild

section
variable (s : State)

theorem exec_flipbit_flips {idx : BitVec 10} (hidx : idx.toNat < 544) :
    ∃ t, exec (.flipbit idx) s = .next t ∧ t.sig = s.sig.flip idx.toNat := by
  rw [exec, execFlipbit, withIndex_legal hidx]
  exact ⟨_, rfl, rfl⟩

theorem exec_check_takes_residue :
    ∃ t, exec .check s = .next t ∧ t.synd = checkFn s.sig ∧ t.sig = s.sig :=
  ⟨_, rfl, by rw [answer_synd, setAttempt_synd, setSynd_synd],
    by rw [answer_sig, setAttempt_sig, setSynd_sig, setCrc_sig]⟩

/-- CORRECT on a syndrome that is neither zero nor an entry flips nothing: STILL_BAD (R200). -/
theorem exec_correct_stillBad (hready : s.tableReady) (hsynd : s.synd ≠ 0)
    (habsent : ∀ p : Fin 544, (syntabWith Config.poly)[p] ≠ s.synd) :
    ∃ t, exec .correct s = .next t ∧ t.sig = s.sig ∧ t.synd = s.synd ∧ t.fix = false ∧
      t.responses = s.responses ++ [⟨.ok, 0x000203FF⟩] := by
  obtain ⟨hce, htv, htab⟩ := hready
  have htable := table_of_some htab
  obtain ⟨t, ht⟩ := answers_exec .correct s
  obtain ⟨hzero, -⟩ | ⟨-, p, -, hp, -⟩ | ⟨-, -, -, rfl⟩ := execCorrect_cases ht hce htv
  · exact absurd hzero hsynd
  · exact absurd (htable ▸ hp) (habsent p)
  · exact ⟨_, ht, rfl, rfl, rfl, rfl⟩

end

/-- A valid signature with two different positions flipped has a residue that is neither zero nor an
entry: the xor of two different syndromes (R162, R176). -/
theorem checkFn_flip_flip_of_valid {m : Memory} (hm : m.wf = true) (hzero : checkFn m = 0)
    {p q : Fin 544} (hpq : p ≠ q) : checkFn ((m.flip p).flip q) ≠ 0 ∧
      ∀ r : Fin 544, (syntabWith Config.poly)[r] ≠ checkFn ((m.flip p).flip q) := by
  rw [checkFn_flip (wf_flip hm p.isLt), checkFn_flip_of_valid hm hzero]
  exact ⟨fun h => hpq (syntab_injective (BitVec.xor_eq_zero_iff.mp h)), syntab_ne_xor p q⟩

/-- Settles O55: CHECK takes the residue of the double error, and CORRECT finds no entry equal to
it. -/
theorem twoErrorsAreStillBad : Obligations.TwoErrorsAreStillBad := by
  intro s i j hready hm hzero hi hj hij
  obtain ⟨t1, h1, hsig1⟩ := exec_flipbit_flips s hi
  obtain ⟨t2, h2, hsig2⟩ := exec_flipbit_flips t1 hj
  obtain ⟨t3, h3, hsynd3, hsig3⟩ := exec_check_takes_residue t2
  have hready2 : t2.tableReady := (hready.of_exec h1 nofun nofun).of_exec h2 nofun nofun
  have hready3 : t3.tableReady := hready2.of_exec h3 nofun nofun
  have hpq : (⟨i.toNat, hi⟩ : Fin 544) ≠ ⟨j.toNat, hj⟩ := fun h =>
    hij (BitVec.eq_of_toNat_eq (Fin.mk.inj h))
  obtain ⟨hne, habsent⟩ := checkFn_flip_flip_of_valid hm hzero hpq
  rw [← hsig1, ← hsig2, ← hsynd3] at hne habsent
  obtain ⟨t4, h4, hsig4, hsynd4, hfix4, hresp4⟩ := exec_correct_stillBad t3 hready3 hne habsent
  exact ⟨t1, t2, t3, t4, h1, h2, h3, h4, hne, hsig4.trans hsig3, hsynd4, hfix4, hresp4⟩

end Sys2Proof.Machine

/-! ## The locator against its own table, and FIND (R190 to R194) -/

namespace Sys2Proof.Machine

open Sys2Proof.Claims

theorem toNat_ofNat_position (p : Fin 544) : (BitVec.ofNat 10 p).toNat = p := by
  rw [BitVec.toNat_ofNat]
  omega

/-- The locator inverts an unambiguous table (R193). -/
theorem findBit_getElem {t : Vector Word 544} (ht : Unambiguous t) (p : Fin 544) :
    findBit t t[p] = BitVec.ofNat 10 p := by
  obtain ⟨hinj, -⟩ := ht
  obtain ⟨q, hq, hentry⟩ | ⟨-, habsent⟩ := findBit_cases t t[p]
  · obtain rfl := hinj hentry
    exact BitVec.eq_of_toNat_eq (hq.trans (toNat_ofNat_position q).symm)
  · exact absurd rfl (habsent p)

theorem findBit_of_absent {t : Vector Word 544} {x : Word} (habsent : ∀ p : Fin 544, t[p] ≠ x) :
    findBit t x = Config.notFound := by
  obtain ⟨p, -, hp⟩ | ⟨hnot, -⟩ := findBit_cases t x
  · exact absurd hp (habsent p)
  · exact hnot

/-- On an unambiguous table the search over `SYNTAB` answers what one over `SORTED` does (R192). -/
theorem findBit_sortedView {t : Vector Word 544} (ht : Unambiguous t) (i : Fin 544) :
    findBit t (sortedView t)[i].syn = (sortedView t)[i].pos := by
  obtain ⟨p, hp⟩ := sortedView_getElem t i
  rw [hp, pairAt_syn, findBit_getElem ht]
  rfl

/-- A word at no rank of the sorted view is no entry, so it is not found (R190). -/
theorem findBit_of_no_rank {t : Vector Word 544} {x : Word}
    (hnone : ∀ i : Fin 544, (sortedView t)[i].syn ≠ x) : findBit t x = Config.notFound := by
  refine findBit_of_absent fun p hp => ?_
  obtain ⟨i, hi⟩ := exists_sortedView_eq_pairAt t p
  exact hnone i (by rw [hi, pairAt_syn, hp])

theorem exec_find_ready {s : State} (hready : s.tableReady) (x : Word) : exec (.find x) s =
    .next (answered ((findBit (syntabWith Config.poly) x).setWidth 32) s) := by
  obtain ⟨hce, htv, htab⟩ := hready
  rw [exec, execFind, withTable_ready hce htv, table_of_some htab]
  rfl

/-- Settles O51: the entries are pairwise distinct; 0 and the words with bit 31 set are no entries. -/
theorem findBitInvertsTheTable : Obligations.FindBitInvertsTheTable := by
  refine ⟨fun p => ?_, fun x => findBit_of_absent, findBit_of_absent syntab_ne_zero,
    fun x htop => findBit_of_absent fun p hp => ?_⟩
  · rw [findBit_getElem unambiguous_poly]
    exact toNat_ofNat_position p
  · rw [← hp, syntab_top p] at htop
    exact Bool.false_ne_true htop

/-- Settles O52: FIND answers the locator's search, which agrees with the sorted view. -/
theorem findAnswersThePosition : Obligations.FindAnswersThePosition := by
  intro s x hready
  refine ⟨findBit (syntabWith Config.poly) x, exec_find_ready hready x, fun i hi => ?_,
    findBit_of_no_rank⟩
  rw [← hi, findBit_sortedView unambiguous_poly]

end Sys2Proof.Machine

/-! ## CORRECT in its three classes, and on a single error (R200 to R203) -/

namespace Sys2Proof.Machine

open Sys2Proof.Claims

/-- The response word of class FIXED at a position (R200). -/
theorem correctionData_fixed (p : Fin 544) :
    correctionData .fixed (BitVec.ofNat 10 p) = 0x00010000 ||| BitVec.ofNat 32 p := by
  have hpos : (BitVec.ofNat 10 p).setWidth 32 = BitVec.ofNat 32 p := by
    rw [← BitVec.ofNat_toNat, toNat_ofNat_position]
  rw [correctionData, hpos]
  rfl

/-- CORRECT with the block's table, class by class (R200, R201). -/
theorem exec_correct_ready {s : State} (hready : s.tableReady) :
    (s.synd = 0 ∧
      exec .correct s = .next (answered 0x000003FF { s with fix := false, pos := 0x3FF })) ∨
    (∃ p : Fin 544, s.synd = (syntabWith Config.poly)[p] ∧
      exec .correct s = .next (answered (0x00010000 ||| BitVec.ofNat 32 p)
        { s with sig := s.sig.flip p, synd := 0, pos := BitVec.ofNat 10 p, fix := true })) ∨
    (s.synd ≠ 0 ∧ (∀ p : Fin 544, s.synd ≠ (syntabWith Config.poly)[p]) ∧
      exec .correct s = .next (answered 0x000203FF { s with fix := false, pos := 0x3FF })) := by
  obtain ⟨hce, htv, htab⟩ := hready
  obtain ⟨t, ht⟩ := answers_exec .correct s
  have hcases := execCorrect_cases ht hce htv
  rw [table_of_some htab] at hcases
  obtain ⟨hzero, rfl⟩ | ⟨-, p, -, hentry, rfl⟩ | ⟨hne, -, habsent, rfl⟩ := hcases
  · exact .inl ⟨hzero, ht⟩
  · rw [← hentry, findBit_getElem unambiguous_poly, correctionData_fixed] at ht
    exact .inr (.inl ⟨p, hentry.symm, ht⟩)
  · exact .inr (.inr ⟨hne, fun p => (habsent p).symm, ht⟩)

/-- Settles O53: the classes exclude each other, because no entry is zero and no two are equal. -/
theorem correctClassifies : Obligations.CorrectClassifies := by
  intro s hready
  obtain ⟨hzero, hgood⟩ | ⟨p, hp, hfixed⟩ | ⟨hne, habsent, hbad⟩ := exec_correct_ready hready
  · exact ⟨fun _ => hgood, fun p hp => absurd (hp.symm.trans hzero) (syntab_ne_zero p),
      fun hne _ => absurd hzero hne⟩
  · refine ⟨fun hzero => absurd (hp.symm.trans hzero) (syntab_ne_zero p), fun q hq => ?_,
      fun _ habsent => absurd hp (habsent p)⟩
    obtain rfl := syntab_injective (hp.symm.trans hq)
    exact hfixed
  · exact ⟨fun hzero => absurd hzero hne, fun p hp => absurd hp (habsent p), fun _ _ => hbad⟩

/-- On a valid signature with position `p` flipped and the syndrome fresh, CORRECT flips `p` (R203). -/
theorem exec_correct_single_error {s : State} {m : Memory} {p : Fin 544} (hready : s.tableReady)
    (hm : m.wf = true) (hzero : checkFn m = 0) (hsig : s.sig = m.flip p) (hfresh : s.syndFresh) :
    exec .correct s = .next (answered (0x00010000 ||| BitVec.ofNat 32 p)
      { s with sig := m, synd := 0, pos := BitVec.ofNat 10 p, fix := true }) := by
  obtain ⟨-, hfixed, -⟩ := correctClassifies s hready
  have hentry : s.synd = (syntabWith Config.poly)[p] := by
    rw [hfresh, hsig, checkFn_flip_of_valid hm hzero]
  rw [hfixed p hentry, hsig, flip_flip hm p.isLt]

/-- Settles O54: CHECK finds the syndrome of the flipped position, CORRECT flips it back, and the
original buffer has residue zero. -/
theorem singleErrorIsCorrected : Obligations.SingleErrorIsCorrected := by
  intro s idx hready hm hzero hidx
  obtain ⟨t1, h1, hsig1⟩ := exec_flipbit_flips s hidx
  obtain ⟨t2, h2, hsynd2, hsig2⟩ := exec_check_takes_residue t1
  have hready2 : t2.tableReady := (hready.of_exec h1 nofun nofun).of_exec h2 nofun nofun
  have hfresh2 : t2.syndFresh := by rw [State.syndFresh, hsynd2, hsig2]
  have h3 := exec_correct_single_error (p := ⟨idx.toNat, hidx⟩) hready2 hm hzero
    (hsig2.trans hsig1) hfresh2
  simp only [BitVec.ofNat_toNat, BitVec.setWidth_eq] at h3
  refine ⟨t1, t2, _, _, h1, h2, h3, checkTakesTheResidue _, rfl, rfl, rfl, rfl, rfl, ?_⟩
  simp only [answered, ← checkFn_eq_residueOfPositions, hzero]

end Sys2Proof.Machine

/-! ## One attempt: after CORRECT there is nothing to correct (R202) -/

namespace Sys2Proof.Machine

/-- CORRECT, if admitted, flips no position: `SYND` is zero or no entry of the table. -/
def State.NothingToCorrect (s : State) : Prop :=
  s.ce = false → s.tv = true → s.synd = 0 ∨ ∀ p : Fin 544, s.table[p] ≠ s.synd

variable {s t : State}

/-- CORRECT keeps a `SYND` that is zero or no entry, and clears one that is an entry (R200). -/
theorem nothingToCorrect_of_execCorrect (h : execCorrect s = .next t) : t.NothingToCorrect := by
  intro hce htv
  obtain ⟨hces, rfl⟩ | ⟨-, htvs, rfl⟩ | ⟨hces, htvs, -⟩ := withTable_cases h
  · exact absurd (hce.symm.trans hces) Bool.false_ne_true
  · exact absurd (htvs.symm.trans htv) Bool.false_ne_true
  · obtain ⟨hzero, rfl⟩ | ⟨-, p, -, -, rfl⟩ | ⟨-, -, habsent, rfl⟩ := execCorrect_cases h hces htvs
    · exact .inl hzero
    · exact .inl rfl
    · exact .inr habsent

theorem State.NothingToCorrect.sig_eq (hs : s.NothingToCorrect) (h : execCorrect s = .next t) :
    t.sig = s.sig := by
  obtain ⟨-, rfl⟩ | ⟨-, -, rfl⟩ | ⟨hce, htv, -⟩ := withTable_cases h
  · rfl
  · rfl
  · obtain ⟨-, rfl⟩ | ⟨hne, p, -, hentry, -⟩ | ⟨-, -, -, rfl⟩ := execCorrect_cases h hce htv
    · rfl
    · obtain hzero | habsent := hs hce htv
      · exact absurd hzero hne
      · exact absurd hentry (habsent p)
    · rfl

/-- Settles O56: whatever the first CORRECT did, it leaves nothing for the second to correct. -/
theorem secondCorrectFlipsNothing : Obligations.SecondCorrectFlipsNothing :=
  fun _ _ _ hfirst hsecond => (nothingToCorrect_of_execCorrect hfirst).sig_eq hsecond

end Sys2Proof.Machine

/-! ## The system commands NOP, SRST and RDREG (R220 to R222) -/

namespace Sys2Proof.Machine

open Sys2Proof.Claims

/-- RDREG answers what its number names (R222). -/
theorem exec_rdreg_of_readReg {reg : BitVec 4} {s : State} {v : Word} (h : readReg reg s = some v) :
    exec (.rdreg reg) s = .next (answered v s) := by
  rw [exec, execRdreg, h]
  rfl

/-- Settles O23: NOP is the response 0. -/
theorem nopDoesNothing : Obligations.NopDoesNothing := fun _ => rfl

/-- Settles O24: SRST responds from the reset block, which keeps of the old state only the host's two
lists. -/
theorem srstResetsTheBlock : Obligations.SrstResetsTheBlock := by
  intro s
  calc exec .srst s = respond 0 s.resetBlock := rfl
    _ = .next { State.reset with inputs := s.inputs, responses := s.responses ++ [⟨.ok, 0⟩] } := rfl

/-- Settles O25: each of the six numbers names its register, and the rest are out of range. -/
theorem rdregReadsTheNamedRegister : Obligations.RdregReadsTheNamedRegister := by
  intro s
  refine ⟨exec_rdreg_of_readReg rfl, exec_rdreg_of_readReg rfl, exec_rdreg_of_readReg rfl,
    exec_rdreg_of_readReg rfl, exec_rdreg_of_readReg rfl, exec_rdreg_of_readReg rfl,
    fun reg hreg => ?_⟩
  have hwf : (Instr.rdreg reg).wf = false := decide_eq_false (Nat.not_lt.mpr hreg)
  exact outOfRangeOperandRefused s _ hwf

end Sys2Proof.Machine

/-! ## A refusal and its status (R272, R273) -/

namespace Sys2Proof.Machine

open Sys2Proof.Claims

variable {s t : State} {i : Instr}

/-- Behind an update that leaves the responses alone, the response seen is the one answered. -/
theorem eq_of_answer_responses {u : State} {q r : Response} (hu : u.responses = s.responses)
    (h : (u.answer q).responses = s.responses ++ [r]) : q = r := by
  rw [answer_responses, hu, List.append_cancel_left_eq] at h
  exact List.singleton_inj.mp h

/-- Every effect but the refusal answers `OK`, so the response tells the refusal (R272). -/
theorem CommandEffect.eq_refused {r : Response} (h : CommandEffect s i t)
    (hresp : t.responses = s.responses ++ [r]) (hne : r.st ≠ .ok) :
    t = Claims.refused r.st r.st.code s := by
  cases h with
  | refused e =>
    obtain rfl := eq_of_answer_responses (recordError_responses s e) hresp
    rfl
  | read | srst | clrcrc | ldcrc | passbit | passbyte | wrsig | flipbit | embed | check | build
  | notCorrected | corrected =>
    obtain rfl := eq_of_answer_responses (by simp -implicitDefEqProofs) hresp
    exact absurd rfl hne

/-- Settles O20: of all effects of a command only the refusal's response is not `OK`. -/
theorem refusalChangesOnlyTheErrorRecord : Obligations.RefusalChangesOnlyTheErrorRecord :=
  fun _ _ _ _ h hresp hne => (exec_effect h).eq_refused hresp hne

/-- The outcome answers `s` with one response more, of status `e` (R71). -/
def AnswersStatus (e : StatusCode) (s : State) (o : Host.Outcome State Fault Refusal) : Prop :=
  ∃ t r, o = .next t ∧ t.responses = s.responses ++ [r] ∧ r.st = e

/-- An outcome has one status. -/
theorem AnswersStatus.status_eq {e : StatusCode} {o : Host.Outcome State Fault Refusal}
    {r : Response} (h : AnswersStatus e s o) (ho : o = .next t)
    (hresp : t.responses = s.responses ++ [r]) : r.st = e := by
  obtain ⟨t', r', ho', hresp', rfl⟩ := h
  obtain rfl := Host.Outcome.next.inj (ho.symm.trans ho')
  rw [hresp, List.append_cancel_left_eq] at hresp'
  rw [List.singleton_inj.mp hresp']

theorem answersStatus_respond {u : State} {d : Word} (hu : u.responses = s.responses) :
    AnswersStatus .ok s (respond d u) := ⟨_, _, rfl, congrArg (· ++ [_]) hu, rfl⟩

theorem answersStatus_raise {e : StatusCode} : AnswersStatus e s (raise e s) :=
  ⟨_, _, rfl, rfl, rfl⟩

theorem withTable_configError {k : Vector Word 544 → Host.Outcome State Fault Refusal}
    (hce : s.ce = true) : withTable s k = raise .eCfg s := if_pos hce

/-- The outcome is decided by the checks 4 and 5: nothing behind them refuses (R273). -/
def DecidedByTable (s : State) (o : Host.Outcome State Fault Refusal) : Prop :=
  ∃ k, o = withTable s k ∧ ∀ tab, AnswersStatus .ok s (k tab)

theorem decidedByTable_withTable {k : Vector Word 544 → Host.Outcome State Fault Refusal}
    (hk : ∀ tab, AnswersStatus .ok s (k tab)) : DecidedByTable s (withTable s k) := ⟨k, rfl, hk⟩

/-- A read of the table at a legal index (R172 to R174). -/
theorem decidedByTable_tableRead {idx : BitVec 10} (hidx : idx.toNat < 544)
    (d : Fin 544 → Vector Word 544 → Word) :
    DecidedByTable s (withIndex idx s fun p => withTable s fun tab => respond (d p tab) s) := by
  rw [withIndex_legal hidx]
  exact decidedByTable_withTable fun _ => answersStatus_respond rfl

/-- Past the operand check, the checks 4 and 5 decide every command that reads the table. -/
theorem exec_of_readsTable (s : State) (hwf : i.wf = true) (hreads : readsTable i) :
    DecidedByTable s (exec i s) := by
  obtain ⟨p, rfl⟩ | ⟨p, rfl⟩ | ⟨p, rfl⟩ | ⟨v, rfl⟩ | rfl := hreads
  · exact decidedByTable_tableRead (of_decide_eq_true hwf) fun p tab => tab[p]
  · exact decidedByTable_tableRead (of_decide_eq_true hwf) fun p tab => (sortedView tab)[p].syn
  · exact decidedByTable_tableRead (of_decide_eq_true hwf) fun p tab =>
      (sortedView tab)[p].pos.setWidth 32
  · exact decidedByTable_withTable fun _ => answersStatus_respond rfl
  · rw [exec, execCorrect]
    refine decidedByTable_withTable fun tab => ?_
    split
    · exact answersStatus_respond rfl
    · split
      · exact answersStatus_respond rfl
      · exact answersStatus_respond rfl

/-- A legal register number names a register (R27, R222). -/
theorem execRdreg_legal {reg : BitVec 4} (h : reg.toNat < 6) :
    ∃ v, execRdreg reg s = respond v s := by
  obtain ⟨v, hv⟩ := Option.ne_none_iff_exists'.mp (mt readReg_none.mp (Nat.not_le_of_lt h))
  exact ⟨v, by rw [execRdreg, hv]⟩

/-- A command that neither reads nor builds the table has the operand check alone (R273). -/
theorem exec_of_noTable (s : State) (hwf : i.wf = true) (hreads : ¬ readsTable i)
    (hbuild : i ≠ .build) : AnswersStatus .ok s (exec i s) := by
  cases i with
  | rdreg reg =>
    obtain ⟨v, hv⟩ := execRdreg_legal (s := s) (of_decide_eq_true hwf)
    rw [exec, hv]
    exact answersStatus_respond rfl
  | wrsig addr | rdsig addr =>
    have haddr : addr.toNat < 68 := of_decide_eq_true hwf
    simp only [exec, execWrsig, execRdsig, withAddr_legal haddr]
    exact answersStatus_respond rfl
  | flipbit idx =>
    rw [exec, execFlipbit, withIndex_legal (of_decide_eq_true hwf)]
    exact answersStatus_respond rfl
  | build => exact absurd rfl hbuild
  | rdtab | rdsorts | rdsortp | find | correct => exact absurd (by simp [readsTable]) hreads
  | nop | srst | clrcrc | ldcrc | passbit | passbyte | embed | check =>
    exact answersStatus_respond (by simp -implicitDefEqProofs)

/-- Check 4 comes before the checks of `TV`, for BUILD as for a reader of the table (R273). -/
theorem exec_of_configError (hwf : i.wf = true) (hce : s.ce = true)
    (hi : readsTable i ∨ i = .build) : AnswersStatus .eCfg s (exec i s) := by
  obtain hreads | rfl := hi
  · obtain ⟨k, hk, -⟩ := exec_of_readsTable s hwf hreads
    rw [hk, withTable_configError hce]
    exact answersStatus_raise
  · rw [exec, execBuild, withoutTable_configError hce]
    exact answersStatus_raise

/-- Check 5 (R273). -/
theorem exec_of_readsTable_absent (hwf : i.wf = true) (hce : s.ce = false) (htv : s.tv = false)
    (hreads : readsTable i) : AnswersStatus .eNotab s (exec i s) := by
  obtain ⟨k, hk, -⟩ := exec_of_readsTable s hwf hreads
  rw [hk, withTable_absent hce htv]
  exact answersStatus_raise

theorem exec_of_readsTable_built (hwf : i.wf = true) (hce : s.ce = false) (htv : s.tv = true)
    (hreads : readsTable i) : AnswersStatus .ok s (exec i s) := by
  obtain ⟨k, hk, hok⟩ := exec_of_readsTable s hwf hreads
  rw [hk, withTable_ready hce htv]
  exact hok _

/-- Check 6 (R171, R273). -/
theorem exec_build_built (hce : s.ce = false) (htv : s.tv = true) :
    AnswersStatus .eState s (exec .build s) := by
  rw [exec, execBuild, withoutTable_built hce htv]
  exact answersStatus_raise

/-- Check 7 never fails with this block's generator (R166). -/
theorem exec_build_absent (hce : s.ce = false) (htv : s.tv = false) :
    AnswersStatus .ok s (exec .build s) := by
  rw [exec, execBuild, withoutTable_absent hce htv, buildWith_poly]
  exact answersStatus_respond rfl

/-- Settles O21: the command answers once, and each clause is the status its own check leaves. -/
theorem admissionChecksInOrder : Obligations.AdmissionChecksInOrder := by
  intro i s
  obtain ⟨t, ht⟩ := answers_exec i s
  obtain ⟨r, hr, -⟩ := (exec_effect ht).respondsOnce
  have status {e : StatusCode} (h : AnswersStatus e s (exec i s)) : r.st = e := h.status_eq ht hr
  refine ⟨t, r, ht, hr, fun hwf => status ?_, fun hwf hce hi => status ?_,
    fun hwf hce htv hreads => status ?_, fun _ hce htv hi => status ?_,
    fun _ hce htv hi => status ?_, fun hwf hce htv hreads => status ?_,
    fun hwf hreads hbuild => status ?_⟩
  · rw [exec_of_not_wf s hwf]
    exact answersStatus_raise
  · exact exec_of_configError hwf hce hi
  · exact exec_of_readsTable_absent hwf hce htv hreads
  · exact hi ▸ exec_build_built hce htv
  · exact hi ▸ exec_build_absent hce htv
  · exact exec_of_readsTable_built hwf hce htv hreads
  · exact exec_of_noTable s hwf hreads hbuild

end Sys2Proof.Machine

/-! ## The step with no command at the port, and its progress (R300, R301, R321) -/

namespace Sys2Proof.Machine

/-- A hard reset takes its own input from the port and resets the block (R300, R301). -/
theorem step_of_inputs_hardReset {s : State} {rest : List PortInput}
    (hin : s.inputs = .hardReset :: rest) :
    step s = .next { s with inputs := rest }.resetBlock := by
  simp only [step, takeInput, hin, hardReset]

/-- After a reset the only flag of `STATUS` that is set is `Z`, at bit 3 (R25, R34). -/
theorem resetBlock_status (s : State) : s.resetBlock.status = 0x00000008 := by
  calc s.resetBlock.status = State.reset.status := rfl
    _ = 0x00000008 := by decide

/-- Settles O9: the port hands over nothing, and the step idles. -/
theorem idleBlockStays : Obligations.IdleBlockStays := by
  intro s hin
  simp only [step, takeInput, hin, idle]

/-- Settles O10: the violation at the port is the arm of `step` that faults. -/
theorem brokenHandshakeFaults : Obligations.BrokenHandshakeFaults := by
  intro s rest hin
  simp only [step, takeInput, hin]

/-- Settles O8: the step reaches the reset block, whose fields are R34's values and which keeps the
host's two lists. -/
theorem hardResetRestoresTheResetValues : Obligations.HardResetRestoresTheResetValues := by
  intro s rest hin
  refine ⟨_, step_of_inputs_hardReset hin, ?_⟩
  exact ⟨resetBlock_crc _, resetBlock_synd _, resetBlock_pos _, resetBlock_tv _, resetBlock_ce _,
    resetBlock_err _, resetBlock_fix _, resetBlock_ecode _, resetBlock_status _, read_nil,
    resetBlock_tab _, resetBlock_inputs _, resetBlock_responses _⟩

/-- Settles O11: by what stands at the port; a command word is answered whether it decodes or not. -/
theorem everyStepAnswers : Obligations.EveryStepAnswers := by
  intro s hok
  match hin : s.inputs with
  | [] => exact ⟨s, idleBlockStays s hin⟩
  | .hardReset :: rest => exact ⟨_, step_of_inputs_hardReset hin⟩
  | .handshakeViolation :: rest => exact absurd hin (hok rest)
  | .command w :: rest =>
    obtain ⟨t, hstep, -⟩ := step_respondsOnce hin
    exact ⟨t, hstep⟩

end Sys2Proof.Machine
